-- ==== Sys2Proof/Word.lean ====
section
/-! DEFINITION. The machine's word types (00_scope.md R7, R9): everything is unsigned. -/

namespace Sys2Proof

/-- An 8-bit register or memory byte. -/
abbrev Byte := BitVec 8

/-- A 16-bit instruction word, PC, I or stack entry. -/
abbrev Word := BitVec 16

/-- A 12-bit address operand `nnn` (30_encoding.md R60). -/
abbrev Address12 := BitVec 12

/-- The index of a general register V0..VF (10_state.md R15). -/
abbrev Reg := Fin 16

end Sys2Proof
end

