-- ==== Sys2Proof/Machine/Flags.lean ====
section
/-! DEFINITION. The values VF takes (10_state.md R17): always 0x00 or 0x01. -/

namespace Sys2Proof.Machine

/-- The flag value of a condition (R17). -/
def flagOf (c : Bool) : Byte := if c then 1 else 0

/-- ADD Vx,Vy: 1 if the true sum exceeds 255 (42_alu.md R103). -/
def carryFlag (a b : Byte) : Byte := flagOf (decide (255 < a.toNat + b.toNat))

/-- SUB: 1 if there is no borrow, that is `a ≥ b` (42_alu.md R104). -/
def notBorrowFlag (a b : Byte) : Byte := flagOf (decide (b.toNat ≤ a.toNat))

/-- SHR: bit 0 of the value before the shift (42_alu.md R105). -/
def shiftRightFlag (a : Byte) : Byte := flagOf (a.getLsbD 0)

/-- SHL: bit 7 of the value before the shift (42_alu.md R106). -/
def shiftLeftFlag (a : Byte) : Byte := flagOf (a.getLsbD 7)

/-- DRW: 1 if the composite detected a collision (43_index_random_draw.md R109). -/
def collisionFlag (col : Bool) : Byte := flagOf col

end Sys2Proof.Machine
end

