-- ==== Sys2Proof/Syntax.lean ====
section
/-! DEFINITION. The instructions: one constructor per row of spec/opcode_table.json, in the table's
order (30_encoding.md R62). -/

namespace Sys2Proof

/-- An instruction with its operands decoded (30_encoding.md R61): register indices, the byte `kk`,
the address `nnn`, and the sprite height, which is a count and so a natural number whose range
0..15 is checked by `Instr.wf`. -/
inductive Instr where
  /-- 0000, the halt sentinel (R86). -/
  | halt
  /-- 00E0 (R87). -/
  | cls
  /-- 00EE (R88). -/
  | ret
  /-- 1nnn (R89). -/
  | jp (nnn : Address12)
  /-- 2nnn (R90). -/
  | call (nnn : Address12)
  /-- 3xkk, SE Vx, kk (R91). -/
  | seVxKk (x : Reg) (kk : Byte)
  /-- 4xkk, SNE Vx, kk (R92). -/
  | sneVxKk (x : Reg) (kk : Byte)
  /-- 5xy0, SE Vx, Vy (R93). -/
  | seVxVy (x y : Reg)
  /-- 6xkk, LD Vx, kk (R97). -/
  | ldVxKk (x : Reg) (kk : Byte)
  /-- 7xkk, ADD Vx, kk (R98). -/
  | addVxKk (x : Reg) (kk : Byte)
  /-- 8xy0, LD Vx, Vy (R99). -/
  | ldVxVy (x y : Reg)
  /-- 8xy1 (R100). -/
  | or (x y : Reg)
  /-- 8xy2 (R101). -/
  | and (x y : Reg)
  /-- 8xy3 (R102). -/
  | xor (x y : Reg)
  /-- 8xy4, ADD Vx, Vy (R103). -/
  | addVxVy (x y : Reg)
  /-- 8xy5 (R104). -/
  | sub (x y : Reg)
  /-- 8xy6; the field y is part of the word and has no effect (R72, R105). -/
  | shr (x y : Reg)
  /-- 8xyE; the field y is part of the word and has no effect (R72, R106). -/
  | shl (x y : Reg)
  /-- 9xy0, SNE Vx, Vy (R94). -/
  | sneVxVy (x y : Reg)
  /-- Annn, LD I, nnn (R107). -/
  | ldI (nnn : Address12)
  /-- Cxkk (R108). -/
  | rnd (x : Reg) (kk : Byte)
  /-- Dxyn; `n` is the height in rows (R109). -/
  | drw (x y : Reg) (n : Nat)
  /-- Fx1E, ADD I, Vx (R112). -/
  | addIVx (x : Reg)
  /-- Fx55, LD [I], Vx: store V0..Vx (R113). -/
  | ldMemVx (x : Reg)
  /-- Fx65, LD Vx, [I]: load V0..Vx (R114). -/
  | ldVxMem (x : Reg)
  deriving DecidableEq, Repr

end Sys2Proof
end

