-- ==== Sys2Proof/WellFormed.lean ====
section
/-! DEFINITION. Which instructions an encoding exists for. Register indices, bytes and addresses are
bounded by their types, so the sprite height is the only operand left to check. -/

namespace Sys2Proof

/-- The operands fit their fields: the height of DRW is the 4-bit count 0..15 (30_encoding.md R61). -/
def Instr.wf : Instr → Bool
  | .drw _ _ n => decide (n ≤ 15)
  | .halt | .cls | .ret | .jp _ | .call _ | .seVxKk _ _ | .sneVxKk _ _ | .seVxVy _ _
  | .ldVxKk _ _ | .addVxKk _ _ | .ldVxVy _ _ | .or _ _ | .and _ _ | .xor _ _ | .addVxVy _ _
  | .sub _ _ | .shr _ _ | .shl _ _ | .sneVxVy _ _ | .ldI _ | .rnd _ _ | .addIVx _ | .ldMemVx _
  | .ldVxMem _ => true

end Sys2Proof
end

