-- ==== Sys2Proof/Decode.lean ====
section
/-! DEFINITION. The decoder (30_encoding.md R59 to R72), the opcode table with its masks and match
values (R62), and the encoder written from the same table. The selector values are the historical
CHIP-8 ones (D1, K1; assumption log 7), and the sub-dispatch is strict (D2; log 8). -/

namespace Sys2Proof

/-- Why bytes are no instruction. -/
inductive DecodeError where
  /-- The word matches no row of the opcode table (R70, R79). -/
  | unknownOpcode (w : Word)
  /-- Fewer than the two bytes of an instruction were given (R59). -/
  | truncated
  deriving DecidableEq, Repr

/-! ## Fields (R60) -/

/-- `op = w[15:12]`. -/
def fieldOp (w : Word) : BitVec 4 := w.extractLsb' 12 4

/-- `x = w[11:8]`. -/
def fieldX (w : Word) : Reg := (w.extractLsb' 8 4).toFin

/-- `y = w[7:4]`. -/
def fieldY (w : Word) : Reg := (w.extractLsb' 4 4).toFin

/-- `n = w[3:0]`. -/
def fieldN (w : Word) : Nat := (w.extractLsb' 0 4).toNat

/-- `kk = w[7:0]`. -/
def fieldKk (w : Word) : Byte := w.extractLsb' 0 8

/-- `nnn = w[11:0]`. -/
def fieldNnn (w : Word) : Address12 := w.extractLsb' 0 12

/-! ## Decoding one word -/

/-- Family 0x0 is selected on the whole word (R64). -/
def decodeSystem (w : Word) : Except DecodeError Instr :=
  if w = 0x0000 then .ok .halt
  else if w = 0x00E0 then .ok .cls
  else if w = 0x00EE then .ok .ret
  else .error (.unknownOpcode w)

/-- Family 0x8 is selected on n (R66). -/
def decodeAlu (w : Word) : Except DecodeError Instr :=
  match fieldN w with
  | 0x0 => .ok (.ldVxVy (fieldX w) (fieldY w))
  | 0x1 => .ok (.or (fieldX w) (fieldY w))
  | 0x2 => .ok (.and (fieldX w) (fieldY w))
  | 0x3 => .ok (.xor (fieldX w) (fieldY w))
  | 0x4 => .ok (.addVxVy (fieldX w) (fieldY w))
  | 0x5 => .ok (.sub (fieldX w) (fieldY w))
  | 0x6 => .ok (.shr (fieldX w) (fieldY w))
  | 0xE => .ok (.shl (fieldX w) (fieldY w))
  | _ => .error (.unknownOpcode w)

/-- Family 0xF is selected on kk (R68). -/
def decodeIndex (w : Word) : Except DecodeError Instr :=
  match (fieldKk w).toNat with
  | 0x1E => .ok (.addIVx (fieldX w))
  | 0x55 => .ok (.ldMemVx (fieldX w))
  | 0x65 => .ok (.ldVxMem (fieldX w))
  | _ => .error (.unknownOpcode w)

/-- The decoder, total on all words (R63, R70). Families 0xB and 0xE hold no instruction (R67, R69);
0x5 and 0x9 require n = 0 (R65). -/
def decodeWord (w : Word) : Except DecodeError Instr :=
  match (fieldOp w).toNat with
  | 0x0 => decodeSystem w
  | 0x1 => .ok (.jp (fieldNnn w))
  | 0x2 => .ok (.call (fieldNnn w))
  | 0x3 => .ok (.seVxKk (fieldX w) (fieldKk w))
  | 0x4 => .ok (.sneVxKk (fieldX w) (fieldKk w))
  | 0x5 => if fieldN w = 0 then .ok (.seVxVy (fieldX w) (fieldY w)) else .error (.unknownOpcode w)
  | 0x6 => .ok (.ldVxKk (fieldX w) (fieldKk w))
  | 0x7 => .ok (.addVxKk (fieldX w) (fieldKk w))
  | 0x8 => decodeAlu w
  | 0x9 => if fieldN w = 0 then .ok (.sneVxVy (fieldX w) (fieldY w)) else .error (.unknownOpcode w)
  | 0xA => .ok (.ldI (fieldNnn w))
  | 0xC => .ok (.rnd (fieldX w) (fieldKk w))
  | 0xD => .ok (.drw (fieldX w) (fieldY w) (fieldN w))
  | 0xF => decodeIndex w
  | _ => .error (.unknownOpcode w)

/-! ## Bytes -/

/-- An instruction word from its two bytes, the one at the lower address first: big-endian (R59,
20_memory.md R46). -/
def wordOfBytes (hi lo : Byte) : Word := hi ++ lo

/-- The two bytes of a word as memory holds them, the one at the lower address first. -/
def bytesOfWord (w : Word) : List Byte := [w.extractLsb' 8 8, w.extractLsb' 0 8]

/-- Decoding a byte sequence: the instruction at its front and the bytes after it. -/
def decodeBytes : List Byte → Except DecodeError (Instr × List Byte)
  | hi :: lo :: rest => (decodeWord (wordOfBytes hi lo)).map fun i => (i, rest)
  | [_] | [] => .error .truncated

/-! ## Encoding -/

/-- A word from its op nibble and the field nnn. -/
def wordNnn (op : Nat) (nnn : Address12) : Word := BitVec.ofNat 16 (op * 4096 + nnn.toNat)

/-- A word from its op nibble and the fields x and kk. -/
def wordXKk (op : Nat) (x : Reg) (kk : Byte) : Word :=
  BitVec.ofNat 16 (op * 4096 + x.val * 256 + kk.toNat)

/-- A word from its op nibble and the fields x, y and n. -/
def wordXYN (op : Nat) (x y : Reg) (n : Nat) : Word :=
  BitVec.ofNat 16 (op * 4096 + x.val * 256 + y.val * 16 + n % 16)

/-- The word of an instruction (the pattern column of R62). -/
def encode : Instr → Word
  | .halt => 0x0000
  | .cls => 0x00E0
  | .ret => 0x00EE
  | .jp nnn => wordNnn 0x1 nnn
  | .call nnn => wordNnn 0x2 nnn
  | .seVxKk x kk => wordXKk 0x3 x kk
  | .sneVxKk x kk => wordXKk 0x4 x kk
  | .seVxVy x y => wordXYN 0x5 x y 0x0
  | .ldVxKk x kk => wordXKk 0x6 x kk
  | .addVxKk x kk => wordXKk 0x7 x kk
  | .ldVxVy x y => wordXYN 0x8 x y 0x0
  | .or x y => wordXYN 0x8 x y 0x1
  | .and x y => wordXYN 0x8 x y 0x2
  | .xor x y => wordXYN 0x8 x y 0x3
  | .addVxVy x y => wordXYN 0x8 x y 0x4
  | .sub x y => wordXYN 0x8 x y 0x5
  | .shr x y => wordXYN 0x8 x y 0x6
  | .shl x y => wordXYN 0x8 x y 0xE
  | .sneVxVy x y => wordXYN 0x9 x y 0x0
  | .ldI nnn => wordNnn 0xA nnn
  | .rnd x kk => wordXKk 0xC x kk
  | .drw x y n => wordXYN 0xD x y n
  | .addIVx x => wordXKk 0xF x 0x1E
  | .ldMemVx x => wordXKk 0xF x 0x55
  | .ldVxMem x => wordXKk 0xF x 0x65

/-- The bytes of an instruction as memory holds them. -/
def encodeBytes (i : Instr) : List Byte := bytesOfWord (encode i)

/-! ## The opcode table -/

/-- One row of the opcode table: its number in R62, and the bits that select it. -/
structure OpcodeRow where
  number : Nat
  mask : Word
  pattern : Word
  deriving DecidableEq, Repr

/-- A word belongs to a row when its masked bits are the row's pattern. -/
def OpcodeRow.covers (r : OpcodeRow) (w : Word) : Bool := w &&& r.mask == r.pattern

/-- The rows of R62 that have no operand, and those selected by the op nibble alone. -/
def opcodeRowsWide : List OpcodeRow :=
  [⟨1, 0xFFFF, 0x0000⟩, ⟨2, 0xFFFF, 0x00E0⟩, ⟨3, 0xFFFF, 0x00EE⟩, ⟨4, 0xF000, 0x1000⟩,
   ⟨5, 0xF000, 0x2000⟩, ⟨6, 0xF000, 0x3000⟩, ⟨7, 0xF000, 0x4000⟩, ⟨9, 0xF000, 0x6000⟩,
   ⟨10, 0xF000, 0x7000⟩, ⟨20, 0xF000, 0xA000⟩, ⟨21, 0xF000, 0xC000⟩, ⟨22, 0xF000, 0xD000⟩]

/-- The rows of R62 selected by the op nibble and by n, and those selected by it and kk. -/
def opcodeRowsNarrow : List OpcodeRow :=
  [⟨8, 0xF00F, 0x5000⟩, ⟨11, 0xF00F, 0x8000⟩, ⟨12, 0xF00F, 0x8001⟩, ⟨13, 0xF00F, 0x8002⟩,
   ⟨14, 0xF00F, 0x8003⟩, ⟨15, 0xF00F, 0x8004⟩, ⟨16, 0xF00F, 0x8005⟩, ⟨17, 0xF00F, 0x8006⟩,
   ⟨18, 0xF00F, 0x800E⟩, ⟨19, 0xF00F, 0x9000⟩, ⟨23, 0xF0FF, 0xF01E⟩, ⟨24, 0xF0FF, 0xF055⟩,
   ⟨25, 0xF0FF, 0xF065⟩]

/-- The opcode table (R62), with the match and mask columns of spec/opcode_table.json. -/
def opcodeTable : List OpcodeRow := opcodeRowsWide ++ opcodeRowsNarrow

/-- The number of an instruction's row in R62. -/
def Instr.rowNumber : Instr → Nat
  | .halt => 1
  | .cls => 2
  | .ret => 3
  | .jp _ => 4
  | .call _ => 5
  | .seVxKk _ _ => 6
  | .sneVxKk _ _ => 7
  | .seVxVy _ _ => 8
  | .ldVxKk _ _ => 9
  | .addVxKk _ _ => 10
  | .ldVxVy _ _ => 11
  | .or _ _ => 12
  | .and _ _ => 13
  | .xor _ _ => 14
  | .addVxVy _ _ => 15
  | .sub _ _ => 16
  | .shr _ _ => 17
  | .shl _ _ => 18
  | .sneVxVy _ _ => 19
  | .ldI _ => 20
  | .rnd _ _ => 21
  | .drw _ _ _ => 22
  | .addIVx _ => 23
  | .ldMemVx _ => 24
  | .ldVxMem _ => 25

/-! ## The host's view of the decoder -/

/-- The instruction read from the word `w` of `nbits` bits, every bit above them 0, laid out as the
bytes memory holds (assumption log 21). -/
def decodeTableWord (nbits w : Nat) : Option Instr :=
  match decodeBytes (bytesOfWord (BitVec.ofNat 16 (w % 2 ^ nbits))) with
  | .ok (i, _) => some i
  | .error _ => none

end Sys2Proof
end

