-- ==== Sys2Proof/Config.lean ====
section
/-! DEFINITION. The fixed parameters of 00_scope.md R7 and the one free value of the spec, the random
stream RNG (R8, D16). The parameter FONT has its default table in Sys2Proof/Machine/Font.lean, and
TICK_SCHEDULE is the list of transactions a session is given (Sys2Proof/Machine/Session.lean). -/

namespace Sys2Proof.Config

/-- MEM_SIZE: addresses 0x000..0xFFF exist (R7). -/
@[simp] abbrev memSize : Nat := 4096

/-- FONT_BASE: the font region is 0x50..0x9F (R7). -/
@[simp] abbrev fontBase : Nat := 0x50

/-- The length of the font region: 16 glyphs of 5 bytes (R7). -/
@[simp] abbrev fontSize : Nat := 80

/-- PROG_BASE: where `load` writes and where PC starts (R7). -/
@[simp] abbrev progBase : Nat := 0x200

/-- The free value RNG (00_scope.md R8, 60_exceptions.md R128, D16): the byte number `pos` of the
stream that `seed` names. It has no body, so nothing can be proved of any of its values
(assumption log 4). -/
opaque rngByte (seed pos : Nat) : Byte

end Sys2Proof.Config
end

