-- ==== Sys2Proof/Machine/Font.lean ====
section
/-! DEFINITION. The parameter FONT (00_scope.md R8, D15): the 80 font bytes that construction writes at
0x50..0x9F. Construction takes any table (`State.resetWith`, `Transaction.reset`); the default is the
one of 10_state.md R38. PRESUMED: that table is general knowledge (K4), assumption log 3. A claim that
depends on font bytes names the table. -/

namespace Sys2Proof.Machine

/-- A value of the parameter FONT: glyph g is the bytes 5g to 5g+4 (R8, R38). -/
abbrev FontTable := Vector Byte 80

/-- The default of FONT (R38). -/
def defaultFont : FontTable :=
  #v[0xF0, 0x90, 0x90, 0x90, 0xF0,
     0x20, 0x60, 0x20, 0x20, 0x70,
     0xF0, 0x10, 0xF0, 0x80, 0xF0,
     0xF0, 0x10, 0xF0, 0x10, 0xF0,
     0x90, 0x90, 0xF0, 0x10, 0x10,
     0xF0, 0x80, 0xF0, 0x10, 0xF0,
     0xF0, 0x80, 0xF0, 0x90, 0xF0,
     0xF0, 0x10, 0x20, 0x40, 0x40,
     0xF0, 0x90, 0xF0, 0x90, 0xF0,
     0xF0, 0x90, 0xF0, 0x10, 0xF0,
     0xF0, 0x90, 0xF0, 0x90, 0x90,
     0xE0, 0x90, 0xE0, 0x90, 0xE0,
     0xF0, 0x80, 0x80, 0x80, 0xF0,
     0xE0, 0x90, 0x90, 0x90, 0xE0,
     0xF0, 0x80, 0xF0, 0x80, 0xF0,
     0xF0, 0x80, 0xF0, 0x80, 0x80]

/-- What construction with the default FONT leaves at an address (R36, R37, R141): the table in the
font region, 0 elsewhere (D5, assumption log 6). An address that memory does not list reads as this;
where construction is given another table, memory lists the bytes that differ (assumption log 19). -/
def initialByte (a : Nat) : Byte :=
  if h : Config.fontBase ≤ a ∧ a < Config.fontBase + Config.fontSize then
    defaultFont[a - Config.fontBase]'(by simp only [Config.fontBase, Config.fontSize] at h ⊢; omega)
  else 0

end Sys2Proof.Machine
end

