-- ==== Sys2Proof/Machine/State.lean ====
section
/-! DEFINITION. The state of the core (10_state.md R35), the reasons a step can stop, and the state
after reset (R39). Plain data throughout. -/

namespace Sys2Proof.Machine

/-- RUN (10_state.md R27). -/
inductive RunState where
  | running
  | halted
  deriving DecidableEq, Repr

/-- MEM: the cells that differ from what construction with the default FONT leaves, addresses strictly rising
(`Memory.wf` in Ops.lean). -/
abbrev Memory := List Host.Cell

/-- FB: 64 columns of 32 rows, `FB[c][r]` with `true` for a lit pixel (10_state.md R30). -/
abbrev FrameBuffer := Vector (Vector Bool 32) 64

/-- The architectural state (10_state.md R35) and, as the model's own fields, which random stream the
environment supplies and how many of its bytes have been drawn (R32, R33; assumption log 4). -/
structure State where
  /-- V0..VF (R15). -/
  v : Vector Byte 16
  /-- The index register (R22). -/
  i : Word
  /-- The program counter (R19). -/
  pc : Word
  /-- The number of valid stack entries, 0..16 (R23). -/
  sp : Fin 17
  /-- The call stack (R24). -/
  stack : Vector Word 16
  /-- The delay timer (R25). -/
  dt : Byte
  /-- The sound timer (R25). -/
  st : Byte
  /-- The run state (R27). -/
  run : RunState
  /-- The 4096 bytes of memory (R29; its form: assumption log 19). -/
  mem : Memory
  /-- The frame buffer (R30). -/
  fb : FrameBuffer
  /-- Model's own: the name of the random stream (R141 step 6). -/
  rngSeed : Nat
  /-- Model's own: how many random bytes have been drawn (R83, R128). -/
  rngPos : Nat
  deriving DecidableEq, Repr

/-- The five error kinds (60_exceptions.md R115). An error leaves the pre-step state in place (R83), so
the outcome carries the kind and its info alone. All are the spec's own errors. -/
inductive Fault where
  /-- Raised by decoding a word outside the opcode table (R116). Safe: the spec's own error. -/
  | unknownOpcode (w : Word)
  /-- Raised by fetch, DRW, LD [I],Vx and LD Vx,[I], and by the memory preset (R117). Safe: the spec's
  own error. -/
  | outOfBounds (address : Nat)
  /-- Raised by CALL on a full stack (R118). Safe: the spec's own error. -/
  | stackOverflow
  /-- Raised by RET on an empty stack (R119). Safe: the spec's own error. -/
  | stackUnderflow
  /-- Raised by the host's load, never by a step (R120). Safe: the spec's own error. -/
  | programTooLarge
  deriving DecidableEq, Repr

/-- What the model refuses. -/
inductive Refusal where
  /-- An instruction that has no meaning yet. No arm of exec answers with it. Safe. -/
  | notModelled (mnemonic : String)
  /-- The host's second load, or a load after a step: outside the contract (R140, D18). Raised by
  `Session.apply`, never by a step. Safe. -/
  | loadOutsideContract
  deriving DecidableEq, Repr

/-- The machine right after reset (10_state.md R39, 70_reset_and_hazards.md R141), at the default of
the parameter FONT and with the first random stream. Memory lists nothing: every byte is what
construction leaves (`initialByte`). `State.resetWith` in Ops.lean takes other parameters. -/
def State.reset : State where
  v := Vector.replicate 16 0
  i := 0
  pc := 0x200
  sp := 0
  stack := Vector.replicate 16 0
  dt := 0
  st := 0
  run := .running
  mem := []
  fb := Vector.replicate 64 (Vector.replicate 32 false)
  rngSeed := 0
  rngPos := 0

end Sys2Proof.Machine
end

