-- ==== Sys2Proof/Machine/Ops.lean ====
section
/-! DEFINITION. The named operations over the state: errors, memory, registers, PC, the call stack,
fetch, the frame buffer and the random port. Every meaning is written over these. -/

namespace Sys2Proof.Machine

/-- What an instruction answers. -/
abbrev Result := Host.Outcome State Fault Refusal

/-! ## Raising an error (00_scope.md R12, 60_exceptions.md R121) -/

/-- Taking an exception. The core has no trap mechanism: no vector, no handler, no saved PC, no cause
register. The step ends with the kind and info for the host, and the state stays the pre-step state,
which the outcome therefore does not repeat (R83, R121; assumption log 1). There is no return from
it (R122). -/
def raise (e : Fault) : Result := .fault e

/-- Checks first, then writes: the outcome of an instruction whose checks answer an error or whose
writes make the state `t` (40_execution_cycle.md R80). -/
def commit : Except Fault State → Result
  | .error e => raise e
  | .ok t => .next t

/-! ## Memory (20_memory.md) -/

/-- The byte at an address, for a list of cells in any order: the first cell of that address, or what
an unlisted address reads as. -/
def Memory.read (m : Memory) (a : Nat) : Byte :=
  match m with
  | [] => initialByte a
  | (b, v) :: rest => if b = a then v else Memory.read rest a

/-- A cell put before the first cell of a higher address. -/
def Memory.place (m : Memory) (a : Nat) (v : Byte) : Memory :=
  match m with
  | [] => [(a, v)]
  | c :: rest => if a < c.1 then (a, v) :: c :: rest else c :: Memory.place rest a v

/-- Writing a byte. The old cell goes; the new one is listed only where it differs from what an
unlisted address reads as, so that equal memories are equal lists. -/
def Memory.write (m : Memory) (a : Nat) (v : Byte) : Memory :=
  let others : Memory := m.filter fun c => c.1 != a
  if v = initialByte a then others else others.place a v

/-- The canonical form: addresses strictly rising, all below 4096, and no cell equal to what an
unlisted address reads as. -/
def Memory.wf (m : Memory) : Bool :=
  decide (m.Pairwise fun c d => c.1 < d.1) &&
    m.all fun c => decide (c.1 < Config.memSize) && c.2 != initialByte c.1

/-- Writing bytes at ascending addresses from `a`. -/
def Memory.writeBlock (m : Memory) (a : Nat) : List Byte → Memory
  | [] => m
  | b :: rest => Memory.writeBlock (m.write a b) (a + 1) rest

/-- The `n` bytes at ascending addresses from `a`. -/
def Memory.readBlock (m : Memory) (a n : Nat) : List Byte :=
  (List.range n).map fun k => m.read (a + k)

/-- The first address of `base, base + 1, .., base + n - 1` that does not exist (R44, R45, R117). -/
def firstOutOfBounds (base n : Nat) : Option Nat :=
  ((List.range n).map fun k => base + k).find? fun a => decide (Config.memSize ≤ a)

/-- The bounds check of an instruction that accesses the `n` addresses from `base`: its error, or the
state `t` it commits (R44, R48). -/
def guardRange (base n : Nat) (t : State) : Result :=
  commit (match firstOutOfBounds base n with
    | some a => .error (.outOfBounds a)
    | none => .ok t)

/-- A state with another memory. -/
def State.setMem (s : State) (m : Memory) : State := { s with mem := m }

/-- `MemWrite(addr, 1, v)` (00_scope.md R11). -/
def State.storeByte (s : State) (a : Nat) (v : Byte) : Except Fault State :=
  if a < Config.memSize then .ok (s.setMem (s.mem.write a v)) else .error (.outOfBounds a)

/-! ## Construction (70_reset_and_hazards.md R141) -/

/-- Memory after construction with the table `font`: FONT at 0x50..0x9F and 0 elsewhere (R36, R37). -/
def Memory.construct (font : FontTable) : Memory :=
  Memory.writeBlock [] Config.fontBase font.toList

/-- Construction of an instance with the parameters FONT and RNG given (00_scope.md R8): its font
table, and the seed of its random source. -/
def State.resetWith (font : FontTable) (seed : Nat) : State :=
  { State.reset with mem := Memory.construct font, rngSeed := seed }

/-! ## Registers (10_state.md) -/

/-- `V[x]` (R15). -/
def State.reg (s : State) (x : Reg) : Byte := s.v[x.val]

/-- `V[x] <- b` (R15). -/
def State.setReg (s : State) (x : Reg) (b : Byte) : State := { s with v := s.v.set x.val b }

/-- The index of VF (R15). -/
abbrev flagReg : Reg := 15

/-- `VF <- b` (R17). -/
def State.setFlag (s : State) (b : Byte) : State := s.setReg flagReg b

/-- The registers V0..V[last] take the bytes `f 0, f 1, ..`, the others keep theirs (44_load_store.md
R114). -/
def State.setRegsTo (s : State) (last : Reg) (f : Nat → Byte) : State :=
  { s with v := Vector.ofFn fun k : Fin 16 => if k ≤ last then f k.val else s.v[k.val] }

/-- `I <- w` (R22). -/
def State.setI (s : State) (w : Word) : State := { s with i := w }

/-- RUN <- Halted (40_execution_cycle.md R78). -/
def State.halt (s : State) : State := { s with run := .halted }

/-! ## Program counter (40_execution_cycle.md R81, R82) -/

/-- `pc <- w`. -/
def State.setPc (s : State) (w : Word) : State := { s with pc := w }

/-- The default next PC, `PC + 2` mod 2^16 (R81). -/
def State.advance (s : State) : State := s.setPc (s.pc + 2)

/-- The next PC of a skip: `PC + 4` if the condition holds, else `PC + 2` (R82). -/
def State.skipIf (s : State) (c : Bool) : State := s.setPc (s.pc + if c then 4 else 2)

/-! ## Call stack (10_state.md R23, R24) -/

/-- A state with another call stack and SP. -/
def State.setStack (s : State) (stack : Vector Word 16) (sp : Fin 17) : State :=
  { s with stack := stack, sp := sp }

/-- `STACK[SP] <- w; SP <- SP + 1`, or StackOverflow on a full stack (41_control.md R90). -/
def State.push (s : State) (w : Word) : Except Fault State :=
  if h : s.sp.val < 16 then
    .ok (s.setStack (s.stack.set s.sp.val w) ⟨s.sp.val + 1, by omega⟩)
  else .error .stackOverflow

/-- `SP <- SP - 1; pc <- STACK[SP]`, or StackUnderflow on an empty stack (41_control.md R88). The
popped entry keeps its value (D10, assumption log 12). -/
def State.popPc (s : State) : Except Fault State :=
  if h : s.sp.val = 0 then .error .stackUnderflow
  else .ok ((s.setStack s.stack ⟨s.sp.val - 1, by omega⟩).setPc
    (s.stack[s.sp.val - 1]'(by have := s.sp.isLt; omega)))

/-! ## Fetch (40_execution_cycle.md R77) -/

/-- `FetchWord(addr)` (00_scope.md R11); the error's address is that of the word (60_exceptions.md
R117). -/
def fetchWordAt (m : Memory) (a : Nat) : Except Fault Word :=
  if a + 1 < Config.memSize then .ok (wordOfBytes (m.read a) (m.read (a + 1)))
  else .error (.outOfBounds a)

/-- The word at PC. -/
def State.fetch (s : State) : Except Fault Word := fetchWordAt s.mem s.pc.toNat

/-- The error of a word that is no instruction (40_execution_cycle.md R79). A fetched word has its two
bytes, so `truncated` does not arise here. -/
def decodeFault (w : Word) : DecodeError → Fault
  | .unknownOpcode u => .unknownOpcode u
  | .truncated => .unknownOpcode w

/-- Fetch and decode: the instruction at PC, or the step's error (R77, R79). -/
def State.fetchInstr (s : State) : Except Fault Instr :=
  match s.fetch with
  | .error e => .error e
  | .ok w =>
    match decodeWord w with
    | .ok i => .ok i
    | .error d => .error (decodeFault w d)

/-- A state whose next step fetches the word `w`: RUN is Running, PC stays where a word can be
fetched from it (else it is PROG_BASE), and the two bytes there are those of `w` (assumption log
21). -/
def State.placeWord (s : State) (w : Word) : State :=
  let pc : Word := if s.pc.toNat + 1 < Config.memSize then s.pc else BitVec.ofNat 16 Config.progBase
  { s with run := .running, pc := pc, mem := s.mem.writeBlock pc.toNat (bytesOfWord w) }

/-! ## Frame buffer (10_state.md R30, 43_index_random_draw.md R110) -/

/-- `FB[c][r]`. -/
def FrameBuffer.pixel (f : FrameBuffer) (c : Fin 64) (r : Fin 32) : Bool := (f[c.val])[r.val]

/-- `FB[c][r] <- b`. -/
def FrameBuffer.setPixel (f : FrameBuffer) (c : Fin 64) (r : Fin 32) (b : Bool) : FrameBuffer :=
  f.set c.val ((f[c.val]).set r.val b)

/-- Every pixel false (41_control.md R87). -/
def FrameBuffer.cleared : FrameBuffer := Vector.replicate 64 (Vector.replicate 32 false)

/-- One cell a sprite touches: its target pixel and the sprite's bit for it. -/
structure SpriteCell where
  c : Fin 64
  r : Fin 32
  bit : Bool
  deriving DecidableEq, Repr

/-- The cell of row `i`, column offset `j` of a sprite drawn at (x, y): most significant bit first,
coordinates wrapped mod 64 and mod 32 (R110). -/
def spriteCell (x y : Byte) (row : Byte) (i j : Nat) : SpriteCell where
  c := Fin.ofNat 64 (x.toNat + j)
  r := Fin.ofNat 32 (y.toNat + i)
  bit := row.getLsbD (7 - j)

/-- The cells of the rows from row number `i` on, in R110's order. -/
def spriteCells (x y : Byte) (i : Nat) : List Byte → List SpriteCell
  | [] => []
  | row :: rest => (List.range 8).map (spriteCell x y row i) ++ spriteCells x y (i + 1) rest

/-- One iteration of R110's loop: note a collision where a lit pixel meets a 1 bit, and XOR the bit
into the pixel. -/
def blitCell (acc : FrameBuffer × Bool) (k : SpriteCell) : FrameBuffer × Bool :=
  let old := acc.1.pixel k.c k.r
  (acc.1.setPixel k.c k.r (old ^^ k.bit), acc.2 || (old && k.bit))

/-- `Composite(x, y, rows)`: the frame buffer after, and whether there was a collision (R110, R111). -/
def composite (f : FrameBuffer) (x y : Byte) (rows : List Byte) : FrameBuffer × Bool :=
  (spriteCells x y 0 rows).foldl blitCell (f, false)

/-- A state with another frame buffer. -/
def State.setFb (s : State) (f : FrameBuffer) : State := { s with fb := f }

/-! ## Random port (60_exceptions.md R128) -/

/-- The byte `RandByte()` answers next: a free value (assumption log 4). -/
def State.randomByte (s : State) : Byte := Config.rngByte s.rngSeed s.rngPos

/-- One byte of the random port is consumed. -/
def State.consumeRandom (s : State) : State := { s with rngPos := s.rngPos + 1 }

end Sys2Proof.Machine
end

