-- ==== Sys2Proof/Machine/Operands.lean ====
section
/-! DEFINITION. Operand forms (30_encoding.md R61): how an operand field becomes a value, and the one
addressing mode, memory from I (20_memory.md R44). -/

namespace Sys2Proof.Machine

/-- `zext_16(nnn)`: the address operand where it is written to PC or I (R61). -/
def zextAddress (nnn : Address12) : Word := nnn.setWidth 16

/-- `zext_16(V[x])`: a register added to I (43_index_random_draw.md R112). -/
def zextByte (b : Byte) : Word := b.setWidth 16

/-- The base of memory accesses: I as a natural number, to which offsets are added without wrapping
(R44, D27). -/
def State.base (s : State) : Nat := s.i.toNat

/-- How many registers V0..V[x] are: the last one is included (44_load_store.md R113, R114). -/
def blockLength (x : Reg) : Nat := x.val + 1

/-- The bytes V0..V[x] in order (44_load_store.md R113). -/
def State.regBlock (s : State) (x : Reg) : List Byte :=
  (List.range (blockLength x)).map fun k => s.reg (Fin.ofNat 16 k)

/-- The sprite rows: the `n` bytes at I (43_index_random_draw.md R109). -/
def State.spriteRows (s : State) (n : Nat) : List Byte := s.mem.readBlock s.base n

end Sys2Proof.Machine
end

