-- ==== Sys2Proof/Machine/Alu.lean ====
section
/-! DEFINITION. Register loads, arithmetic, logic and shifts (42_alu.md R95 to R106). Every operand is
read from the state before the instruction (40_execution_cycle.md R84); where VF is also the
destination, the flag is written last (R96, D6; assumption log 10). -/

namespace Sys2Proof.Machine

/-- `V[x] <- result; pc <- PC + 2`, no flag. -/
def writeResult (s : State) (x : Reg) (result : Byte) : Result := .next (s.setReg x result).advance

/-- `V[x] <- result; VF <- flag; pc <- PC + 2`, in this order (R96). -/
def writeResultFlag (s : State) (x : Reg) (result flag : Byte) : Result :=
  .next ((s.setReg x result).setFlag flag).advance

/-- LD Vx, kk (R97). -/
def execLdVxKk (x : Reg) (kk : Byte) (s : State) : Result := writeResult s x kk

/-- ADD Vx, kk: no flag (R98). -/
def execAddVxKk (x : Reg) (kk : Byte) (s : State) : Result := writeResult s x (s.reg x + kk)

/-- LD Vx, Vy (R99). -/
def execLdVxVy (x y : Reg) (s : State) : Result := writeResult s x (s.reg y)

/-- OR Vx, Vy (R100). -/
def execOr (x y : Reg) (s : State) : Result := writeResult s x (s.reg x ||| s.reg y)

/-- AND Vx, Vy (R101). -/
def execAnd (x y : Reg) (s : State) : Result := writeResult s x (s.reg x &&& s.reg y)

/-- XOR Vx, Vy (R102). -/
def execXor (x y : Reg) (s : State) : Result := writeResult s x (s.reg x ^^^ s.reg y)

/-- ADD Vx, Vy: VF is the carry (R103). -/
def execAddVxVy (x y : Reg) (s : State) : Result :=
  writeResultFlag s x (s.reg x + s.reg y) (carryFlag (s.reg x) (s.reg y))

/-- SUB Vx, Vy: VF is the absence of a borrow (R104). -/
def execSub (x y : Reg) (s : State) : Result :=
  writeResultFlag s x (s.reg x - s.reg y) (notBorrowFlag (s.reg x) (s.reg y))

/-- SHR Vx: the y field has no effect (R72, R105, C3). -/
def execShr (x _y : Reg) (s : State) : Result :=
  writeResultFlag s x (s.reg x >>> 1) (shiftRightFlag (s.reg x))

/-- SHL Vx: the y field has no effect (R72, R106, C3). -/
def execShl (x _y : Reg) (s : State) : Result :=
  writeResultFlag s x (s.reg x <<< 1) (shiftLeftFlag (s.reg x))

end Sys2Proof.Machine
end

