-- ==== Sys2Proof/Machine/Control.lean ====
section
/-! DEFINITION. The halt sentinel (40_execution_cycle.md R86), display clear, subroutines, jumps and
skips (41_control.md R87 to R94). -/

namespace Sys2Proof.Machine

/-- HALT: RUN <- Halted, PC unchanged (R78, R86). -/
def execHalt (s : State) : Result := .next s.halt

/-- CLS: every pixel false (R87). -/
def execCls (s : State) : Result := .next (s.setFb FrameBuffer.cleared).advance

/-- RET: PC is the popped address, with no further advance (R88). -/
def execRet (s : State) : Result := commit s.popPc

/-- JP nnn (R89). -/
def execJp (nnn : Address12) (s : State) : Result := .next (s.setPc (zextAddress nnn))

/-- CALL nnn: push PC + 2, then jump (R90, C2, D9; assumption log 11). -/
def execCall (nnn : Address12) (s : State) : Result :=
  commit ((s.push (s.pc + 2)).map fun t => t.setPc (zextAddress nnn))

/-- SE Vx, kk (R91). -/
def execSeVxKk (x : Reg) (kk : Byte) (s : State) : Result := .next (s.skipIf (s.reg x == kk))

/-- SNE Vx, kk (R92). -/
def execSneVxKk (x : Reg) (kk : Byte) (s : State) : Result := .next (s.skipIf (s.reg x != kk))

/-- SE Vx, Vy (R93). -/
def execSeVxVy (x y : Reg) (s : State) : Result := .next (s.skipIf (s.reg x == s.reg y))

/-- SNE Vx, Vy (R94). -/
def execSneVxVy (x y : Reg) (s : State) : Result := .next (s.skipIf (s.reg x != s.reg y))

end Sys2Proof.Machine
end

