-- ==== Sys2Proof/Machine/IndexDraw.lean ====
section
/-! DEFINITION. The index register, the random byte and the sprite draw (43_index_random_draw.md R107
to R112). -/

namespace Sys2Proof.Machine

/-- LD I, nnn (R107). -/
def execLdI (nnn : Address12) (s : State) : Result := .next (s.setI (zextAddress nnn)).advance

/-- RND Vx, kk: one byte is consumed whatever kk is (R108). -/
def execRnd (x : Reg) (kk : Byte) (s : State) : Result :=
  .next (s.consumeRandom.setReg x (s.randomByte &&& kk)).advance

/-- DRW Vx, Vy, n: the bounds check first, then the blit, then VF (R109, R110, R111). -/
def execDrw (x y : Reg) (n : Nat) (s : State) : Result :=
  let drawn := composite s.fb (s.reg x) (s.reg y) (s.spriteRows n)
  guardRange s.base n ((s.setFb drawn.1).setFlag (collisionFlag drawn.2)).advance

/-- ADD I, Vx: mod 2^16, VF not written, no bounds check (R112, D8). -/
def execAddIVx (x : Reg) (s : State) : Result := .next (s.setI (s.i + zextByte (s.reg x))).advance

end Sys2Proof.Machine
end

