-- ==== Sys2Proof/Machine/LoadStore.lean ====
section
/-! DEFINITION. Register block store and load (44_load_store.md R113, R114). I is never modified. -/

namespace Sys2Proof.Machine

/-- LD [I], Vx: every address checked before any byte is written (R113). -/
def execLdMemVx (x : Reg) (s : State) : Result :=
  guardRange s.base (blockLength x) (s.setMem (s.mem.writeBlock s.base (s.regBlock x))).advance

/-- LD Vx, [I]: every address checked before any register is written (R114). -/
def execLdVxMem (x : Reg) (s : State) : Result :=
  guardRange s.base (blockLength x) (s.setRegsTo x fun k => s.mem.read (s.base + k)).advance

end Sys2Proof.Machine
end

