-- ==== Sys2Proof/Machine/Step.lean ====
section
/-! DEFINITION. One step, `execute_one` (40_execution_cycle.md R76, R80). -/

namespace Sys2Proof.Machine

/-- One step. A halted core does nothing (R76); else fetch, decode and execute, in R80's order. The
halt sentinel is the instruction `halt`, whose word decodes to nothing else. -/
def step (s : State) : Host.Outcome State Fault Refusal :=
  match s.run with
  | .halted => .next s
  | .running =>
    match s.fetchInstr with
    | .error e => raise e
    | .ok i => exec i s

/-- `s` with the word `w` of `nbits` bits where the next step fetches (assumption log 21). -/
def State.withFetchWord (s : State) (nbits w : Nat) : State :=
  s.placeWord (BitVec.ofNat 16 (w % 2 ^ nbits))

end Sys2Proof.Machine
end

