-- ==== Sys2Proof/Machine/Session.lean ====
section
/-! DEFINITION. The host interface: the atomic transactions of 60_exceptions.md R129 and what each
answers. A session is one instance of the core as its host drives it, and a list of transactions is
a host's whole run, so the number of ticks between steps (TICK_SCHEDULE, R150) is whatever the list
says (assumption log 16). -/

namespace Sys2Proof.Machine

/-! ## Operations of the ports -/

/-- `tick`: DT and ST are decremented, floored at 0; nothing else changes (R126). -/
def State.tick (s : State) : State :=
  { s with
    dt := if 0 < s.dt.toNat then s.dt - 1 else 0
    st := if 0 < s.st.toNat then s.st - 1 else 0 }

/-- `load(bytes)`: all or nothing at PROG_BASE (70_reset_and_hazards.md R144). -/
def State.load (s : State) (bytes : List Byte) : Except Fault State :=
  if Config.memSize < Config.progBase + bytes.length then .error .programTooLarge
  else .ok (s.setMem (s.mem.writeBlock Config.progBase bytes))

/-- `fb_read`: the grid as the function (c, r) ↦ FB[c][r] (R133). -/
def State.fbRead (s : State) (c : Fin 64) (r : Fin 32) : Bool := FrameBuffer.pixel s.fb c r

/-- `debug_words`: FetchWord(PC + 2k) for as long as PC + 2k + 1 < 4096 (R134). -/
def State.debugWords (s : State) : List Word :=
  (List.range ((Config.memSize - s.pc.toNat) / 2)).map fun k =>
    wordOfBytes (s.mem.read (s.pc.toNat + 2 * k)) (s.mem.read (s.pc.toNat + 2 * k + 1))

/-- What `inspect` shows: every item of 10_state.md R35 (R135). -/
structure Snapshot where
  v : Vector Byte 16
  i : Word
  pc : Word
  sp : Fin 17
  stack : Vector Word 16
  dt : Byte
  st : Byte
  run : RunState
  mem : Memory
  fb : FrameBuffer
  deriving DecidableEq, Repr

/-- `inspect`: the architectural state, without the random source's (R135). -/
def State.inspect (s : State) : Snapshot :=
  { v := s.v, i := s.i, pc := s.pc, sp := s.sp, stack := s.stack, dt := s.dt, st := s.st,
    run := s.run, mem := s.mem, fb := s.fb }

/-- What the preset port may write: not FB, not RUN, and no SP above 16 (R135). -/
inductive Preset where
  | reg (x : Reg) (b : Byte)
  | i (w : Word)
  | pc (w : Word)
  | sp (n : Fin 17)
  | stack (k : Fin 16) (w : Word)
  | dt (b : Byte)
  | st (b : Byte)
  | mem (a : Nat) (b : Byte)
  deriving DecidableEq, Repr

/-- `preset`: one write of the test port. A memory address that does not exist is OutOfBounds
(R11, assumption log 18). -/
def State.preset (s : State) (p : Preset) : Except Fault State :=
  match p with
  | .reg x b => .ok (s.setReg x b)
  | .i w => .ok (s.setI w)
  | .pc w => .ok (s.setPc w)
  | .sp n => .ok { s with sp := n }
  | .stack k w => .ok { s with stack := s.stack.set k.val w }
  | .dt b => .ok { s with dt := b }
  | .st b => .ok { s with st := b }
  | .mem a b => s.storeByte a b

/-- The numbers a status port gives the error kinds (R115, D17). -/
def faultCode : Fault → Nat
  | .unknownOpcode _ => 1
  | .outOfBounds _ => 2
  | .stackOverflow => 3
  | .stackUnderflow => 4
  | .programTooLarge => 5

/-! ## Transactions -/

/-- What the host can ask for that may change the instance (R129). -/
inductive Transaction where
  /-- Construct a new instance with this font table, its random source seeded (R141, R8). -/
  | reset (font : FontTable) (seed : Nat)
  | load (bytes : List Byte)
  | step
  | tick
  | preset (p : Preset)
  deriving DecidableEq, Repr

/-- What a transaction answers. -/
inductive Response where
  /-- The transaction was carried out (reset, load, tick, preset). -/
  | done
  /-- A step completed its instruction (40_execution_cycle.md R85). -/
  | executed
  /-- A step fetched 0x0000, or was called while halted (R85). -/
  | halted
  /-- The error kind and its info; the core's state is unchanged (R83, R130). -/
  | error (e : Fault)
  /-- The model refuses the call. -/
  | refused (r : Refusal)
  deriving DecidableEq, Repr

/-- An instance and whether its one load may still come (R140, R143; assumption log 17). -/
structure Session where
  core : State
  loadOpen : Bool
  deriving DecidableEq, Repr

/-- A session right after reset. -/
def Session.fresh (font : FontTable) (seed : Nat) : Session :=
  { core := State.resetWith font seed, loadOpen := true }

/-- The answer to a step that went to `t` (R85). -/
def stepResponse (t : State) : Response :=
  match t.run with
  | .running => .executed
  | .halted => .halted

/-- The step port (R130). On an error the core keeps its pre-step state (R83). -/
def Session.takeStep (h : Session) : Session × Response :=
  match step h.core with
  | .next t => ({ core := t, loadOpen := false }, stepResponse t)
  | .fault e => ({ core := h.core, loadOpen := false }, .error e)
  | .refused r => ({ core := h.core, loadOpen := false }, .refused r)

/-- The load port (R132). The one call is used up even where it fails (assumption log 17). -/
def Session.takeLoad (h : Session) (bytes : List Byte) : Session × Response :=
  if h.loadOpen then
    match h.core.load bytes with
    | .ok t => ({ core := t, loadOpen := false }, .done)
    | .error e => ({ core := h.core, loadOpen := false }, .error e)
  else (h, .refused .loadOutsideContract)

/-- The preset port (R135). -/
def Session.takePreset (h : Session) (p : Preset) : Session × Response :=
  match h.core.preset p with
  | .ok t => ({ core := t, loadOpen := h.loadOpen }, .done)
  | .error e => (h, .error e)

/-- One transaction of the host. -/
def Session.apply (h : Session) (q : Transaction) : Session × Response :=
  match q with
  | .reset font seed => (Session.fresh font seed, .done)
  | .load bytes => h.takeLoad bytes
  | .step => h.takeStep
  | .tick => ({ core := h.core.tick, loadOpen := h.loadOpen }, .done)
  | .preset p => h.takePreset p

/-- A host's run: its transactions in order, and their answers. -/
def Session.applyAll (h : Session) : List Transaction → Session × List Response
  | [] => (h, [])
  | q :: rest =>
    let first := h.apply q
    let others := Session.applyAll first.1 rest
    (others.1, first.2 :: others.2)

end Sys2Proof.Machine
end

