-- ==== Sys2Proof/Safety.lean ====
section
/-! DEFINITION. The terms claims are stated in: legal states, what a step leaves alone, what an
instruction reads and writes according to 10_state.md R16 and R17, and how a run ends (60_exceptions.md
R139). -/

namespace Sys2Proof.Machine

/-! ## Legal states -/

/-- The states a run without presets reaches satisfy this: memory is canonical, PC never exceeds
0x1002 (10_state.md R21), and a return address is at most 0x1000 (41_control.md R88). -/
def State.Legal (s : State) : Prop :=
  s.mem.wf = true ∧ s.pc.toNat ≤ 0x1002 ∧ ∀ k : Fin 16, (s.stack[k.val]).toNat ≤ 0x1000

/-! ## Frames -/

/-- The parts of the state. -/
inductive Part where
  | v | i | pc | stack | timers | run | mem | fb | random
  deriving DecidableEq, Repr

/-- `t` has the same `p` as `s`. -/
def SamePart (s t : State) : Part → Prop
  | .v => ∀ x, t.reg x = s.reg x
  | .i => t.i = s.i
  | .pc => t.pc = s.pc
  | .stack => t.sp = s.sp ∧ t.stack = s.stack
  | .timers => t.dt = s.dt ∧ t.st = s.st
  | .run => t.run = s.run
  | .mem => ∀ a, t.mem.read a = s.mem.read a
  | .fb => t.fb = s.fb
  | .random => t.rngSeed = s.rngSeed ∧ t.rngPos = s.rngPos

/-- `t` is `s` in every part outside the list. -/
def SameExcept (ps : List Part) (s t : State) : Prop := ∀ p, p ∉ ps → SamePart s t p

/-- `t` is `s` in every register outside the list. -/
def SameRegsExcept (xs : List Reg) (s t : State) : Prop := ∀ k, k ∉ xs → t.reg k = s.reg k

/-! ## What the rules say an instruction reads and writes -/

/-- The registers an instruction names as a source (10_state.md R16). -/
def readsReg (i : Instr) (k : Reg) : Prop :=
  match i with
  | .seVxVy x y | .sneVxVy x y | .or x y | .and x y | .xor x y | .addVxVy x y | .sub x y
  | .drw x y _ => k = x ∨ k = y
  | .ldVxVy _ y => k = y
  | .seVxKk x _ | .sneVxKk x _ | .addVxKk x _ | .shr x _ | .shl x _ | .addIVx x => k = x
  | .ldMemVx x => k ≤ x
  | .halt | .cls | .ret | .jp _ | .call _ | .ldVxKk _ _ | .ldI _ | .rnd _ _ | .ldVxMem _ => False

/-- The registers an instruction names as its destination (10_state.md R16). -/
def writesReg (i : Instr) (k : Reg) : Prop :=
  match i with
  | .ldVxKk x _ | .addVxKk x _ | .ldVxVy x _ | .or x _ | .and x _ | .xor x _ | .addVxVy x _
  | .sub x _ | .shr x _ | .shl x _ | .rnd x _ => k = x
  | .ldVxMem x => k ≤ x
  | .halt | .cls | .ret | .jp _ | .call _ | .seVxKk _ _ | .sneVxKk _ _ | .seVxVy _ _
  | .sneVxVy _ _ | .ldI _ | .drw _ _ _ | .addIVx _ | .ldMemVx _ => False

/-- The five instructions that write VF as a side effect (10_state.md R17). -/
def writesFlag (i : Instr) : Prop :=
  match i with
  | .addVxVy _ _ | .sub _ _ | .shr _ _ | .shl _ _ | .drw _ _ _ => True
  | .halt | .cls | .ret | .jp _ | .call _ | .seVxKk _ _ | .sneVxKk _ _ | .seVxVy _ _ | .ldVxKk _ _
  | .addVxKk _ _ | .ldVxVy _ _ | .or _ _ | .and _ _ | .xor _ _ | .sneVxVy _ _ | .ldI _ | .rnd _ _
  | .addIVx _ | .ldMemVx _ | .ldVxMem _ => False

/-! ## Comparing two runs -/

/-- Two outcomes are of one kind: next states that `R` relates, or the same fault or refusal. -/
def OutcomesAgree (R : State → State → Prop) (a b : Result) : Prop :=
  match a, b with
  | .next s, .next t => R s t
  | .fault e, .fault f => e = f
  | .refused p, .refused q => p = q
  | _, _ => False

/-- Two states that differ at most in `V[k]`. -/
def SameButReg (k : Reg) (s t : State) : Prop := ∃ b, t = s.setReg k b

/-- Two states that differ at most in stack entries at index SP and above, which are stale
(10_state.md R24). -/
def SameButStale (s t : State) : Prop :=
  ∃ stack : Vector Word 16, t = { s with stack := stack } ∧
    ∀ k : Fin 16, k.val < s.sp.val → stack[k.val] = s.stack[k.val]

/-! ## Sprites -/

/-- The sprite's bit over the pixel (c, r), for the rows `rows` drawn at (x, y): 0 outside the sprite
(43_index_random_draw.md R110). -/
def spriteBit (x y : Byte) (rows : List Byte) (c : Fin 64) (r : Fin 32) : Bool :=
  let j := (c.val + 256 - x.toNat) % 64
  let i := (r.val + 256 - y.toNat) % 32
  decide (j < 8) && (rows.getD i 0).getLsbD (7 - j)

/-! ## How a run ends (60_exceptions.md R139) -/

/-- After `k` steps from `s` the core is halted. -/
def HaltsAfter (s : State) (k : Nat) : Prop :=
  ∃ t, Host.Core.run core k s = .next t ∧ t.run = .halted

/-- After `k` steps from `s` the next step answers the error `e`. -/
def FailsAfter (s : State) (k : Nat) (e : Fault) : Prop :=
  ∃ t, Host.Core.run core k s = .next t ∧ step t = .fault e

end Sys2Proof.Machine
end

