-- ==== Sys2Proof/Certificates/Slice0/Obligations.lean ====
section
/-! DEFINITION. The statements for the provers, each with the rule of spec/ it formalises. Where a
statement rests on one of the spec's own decisions or on the model's, its docstring names the
decision and the row of the assumption log. -/

open Sys2Proof Sys2Proof.Machine

/-! ## Encoding and decoding -/

/-- Decoding the word of a well-formed instruction gives the instruction back, every operand at every
value (R60, R61, R62). The selector values are the spec's decision D1: assumption log 7. -/
def Obligations.DecodeInvertsEncode : Prop :=
  ∀ i : Instr, i.wf = true → decodeWord (encode i) = .ok i

/-- What a word decodes to is well formed and has that word as its encoding, so no bit of a word is
dropped (R62, R63; D1, D2: assumption log 7, 8). -/
def Obligations.EncodeInvertsDecode : Prop :=
  ∀ (w : Word) (i : Instr), decodeWord w = .ok i → encode i = w ∧ i.wf = true

/-- R70: every word either decodes to the one row of the opcode table that covers it, or is
UnknownOpcode; then no row covers it and a step that fetches it fails. -/
def Obligations.EachWordHasOneOutcome : Prop :=
  ∀ w : Word,
    (∃ (i : Instr) (r : OpcodeRow), decodeWord w = .ok i ∧ r.number = i.rowNumber ∧
      (opcodeTable.filter fun q => q.covers w) = [r]) ∨
    (decodeWord w = .error (.unknownOpcode w) ∧ (∀ r ∈ opcodeTable, r.covers w = false) ∧
      ∀ s : State, s.run = .running → s.fetch = .ok w → step s = .fault (.unknownOpcode w))

/-- Which words are UnknownOpcode, family by family (R63 to R69): the strict decode and the absent
families are the spec's decisions D2 and D3 (assumption log 8, 9). -/
def Obligations.UnlistedWordsAreUnknown : Prop :=
  ∀ w : Word, decodeWord w = .error (.unknownOpcode w) ↔
    (w.toNat / 4096 = 0x0 ∧ w ≠ 0x0000 ∧ w ≠ 0x00E0 ∧ w ≠ 0x00EE) ∨
    (w.toNat / 4096 = 0x5 ∧ w.toNat % 16 ≠ 0) ∨
    (w.toNat / 4096 = 0x8 ∧ w.toNat % 16 ∉ [0x0, 0x1, 0x2, 0x3, 0x4, 0x5, 0x6, 0xE]) ∨
    (w.toNat / 4096 = 0x9 ∧ w.toNat % 16 ≠ 0) ∨
    w.toNat / 4096 = 0xB ∨
    w.toNat / 4096 = 0xE ∨
    (w.toNat / 4096 = 0xF ∧ w.toNat % 256 ∉ [0x1E, 0x55, 0x65])

/-- Words written out from the encodings of R62, a few of each family (D1: assumption log 7). -/
def Obligations.SampleWordsDecode : Prop :=
  decodeTableWord 16 0x0000 = some .halt ∧
  decodeTableWord 16 0x00E0 = some .cls ∧
  decodeTableWord 16 0x00EE = some .ret ∧
  decodeTableWord 16 0x12F0 = some (.jp 0x2F0) ∧
  decodeTableWord 16 0x2400 = some (.call 0x400) ∧
  decodeTableWord 16 0x3310 = some (.seVxKk 3 0x10) ∧
  decodeTableWord 16 0x9120 = some (.sneVxVy 1 2) ∧
  decodeTableWord 16 0x6102 = some (.ldVxKk 1 0x02) ∧
  decodeTableWord 16 0x8124 = some (.addVxVy 1 2) ∧
  decodeTableWord 16 0x812E = some (.shl 1 2) ∧
  decodeTableWord 16 0xA300 = some (.ldI 0x300) ∧
  decodeTableWord 16 0xC30F = some (.rnd 3 0x0F) ∧
  decodeTableWord 16 0xD231 = some (.drw 2 3 1) ∧
  decodeTableWord 16 0xF155 = some (.ldMemVx 1) ∧
  decodeTableWord 16 0xF165 = some (.ldVxMem 1) ∧
  decodeTableWord 16 0xFFFF = none

/-- An instruction is two bytes, the high-order byte first, and decoding takes exactly these from the
front of a byte sequence (R46, R59; the selector values: assumption log 7). -/
def Obligations.InstructionIsTwoBytesBigEndian : Prop :=
  ∀ (i : Instr) (rest : List Byte), i.wf = true →
    decodeBytes (encodeBytes i ++ rest) = .ok (i, rest) ∧
    (encodeBytes i).map BitVec.toNat = [(encode i).toNat / 256, (encode i).toNat % 256]

/-! ## The step -/

/-- R80's order: a halted core does nothing, an out-of-range PC fails, the halt word halts, a word
that is an instruction `i` makes the step `exec i`, any other word fails. What a halted step does is
decision D12 and the address a fetch records is D11 (assumption log 2, 13). -/
def Obligations.StepRunsTheDecodedInstruction : Prop :=
  ∀ s : State,
    (s.run = .halted → step s = .next s) ∧
    (s.run = .running → 4096 ≤ s.pc.toNat + 1 → step s = .fault (.outOfBounds s.pc.toNat)) ∧
    (s.run = .running → s.pc.toNat + 1 < 4096 →
      ∀ w, w = wordOfBytes (s.mem.read s.pc.toNat) (s.mem.read (s.pc.toNat + 1)) →
        (w = 0x0000 → step s = .next { s with run := .halted }) ∧
        (∀ i, decodeWord w = .ok i → i.wf = true ∧ step s = exec i s) ∧
        (decodeWord w = .error (.unknownOpcode w) → step s = .fault (.unknownOpcode w)))

/-- R78: fetching 0x0000 sets RUN and changes nothing else, no other step halts, and a jump to itself
is a legal infinite loop. -/
def Obligations.OnlyTheZeroWordHalts : Prop :=
  ∀ s : State, s.run = .running →
    (s.fetch = .ok 0x0000 → step s = .next { s with run := .halted }) ∧
    (∀ t, step s = .next t → t.run = .halted → s.fetch = .ok 0x0000) ∧
    (∀ nnn, s.fetchInstr = .ok (.jp nnn) → nnn.toNat = s.pc.toNat → step s = .next s)

/-- R27: RUN resets to Running, only a step that fetches 0x0000 changes it, and nothing but a reset
takes a halted core back. -/
def Obligations.HaltedIsTerminal : Prop :=
  (∀ (h : Session) (font : FontTable) (seed : Nat),
    (h.apply (.reset font seed)).1.core.run = .running) ∧
  ∀ (h : Session) (q : Transaction), (∀ font seed, q ≠ .reset font seed) →
    (h.core.run = .halted → (h.apply q).1.core.run = .halted) ∧
    (h.core.run = .running → (h.apply q).1.core.run = .halted →
      q = .step ∧ h.core.fetch = .ok 0x0000)

/-- R136, R76, R126: in Halted no number of steps and ticks wakes the core or changes anything but DT
and ST. That a step taken in Halted changes nothing is the spec's decision D12 (assumption log 2), that
ticks still decrement there is D23 (assumption log 16). -/
def Obligations.HaltedKeepsAllButTimers : Prop :=
  ∀ (h : Session) (qs : List Transaction), h.core.run = .halted →
    (∀ q ∈ qs, q = .step ∨ q = .tick) →
    SameExcept [.timers] h.core (h.applyAll qs).1.core ∧
    (h.applyAll qs).1.core.dt.toNat = h.core.dt.toNat - qs.count .tick ∧
    (h.applyAll qs).1.core.st.toNat = h.core.st.toNat - qs.count .tick

/-- R83: a step that answers an error leaves every part of the state as it was and gives the host the
error; RND cannot fail, and only RND consumes a random byte. -/
def Obligations.ErrorLeavesStateUnchanged : Prop :=
  (∀ (h : Session) (e : Fault), (h.apply .step).2 = .error e →
    (h.apply .step).1.core = h.core ∧ step h.core = .fault e) ∧
  (∀ (x : Reg) (kk : Byte) (s : State), ∃ t, exec (.rnd x kk) s = .next t) ∧
  (∀ (i : Instr) (s t : State), exec i s = .next t → t.rngPos ≠ s.rngPos →
    ∃ x kk, i = .rnd x kk)

/-- R122 (the spec's derivation, D13: assumption log 1): after an error, with any number of ticks
between, the next step answers the same error, and RUN is still Running. -/
def Obligations.ErrorRepeats : Prop :=
  ∀ (h : Session) (e : Fault) (n : Nat), (h.apply .step).2 = .error e →
    (((h.apply .step).1.applyAll (List.replicate n .tick)).1.apply .step).2 = .error e ∧
    ((h.apply .step).1.applyAll (List.replicate n .tick)).1.core.run = .running

/-- R81 and R82: the next PC of every instruction. HALT is not executed and leaves PC (R78). That RET
does not advance past the entry it pops is the spec's decision D9 (assumption log 11), that PC + 2 and
PC + 4 are taken mod 2^16 is D22 (assumption log 23). -/
def Obligations.NextPcOfEveryInstruction : Prop :=
  ∀ (i : Instr) (s t : State), exec i s = .next t →
    match i with
    | .halt => t.pc = s.pc
    | .jp nnn | .call nnn => t.pc.toNat = nnn.toNat
    | .ret => ∃ k : Fin 16, s.sp.val = k.val + 1 ∧ t.pc = s.stack[k.val]
    | .seVxKk x kk => t.pc = if s.reg x = kk then s.pc + 4 else s.pc + 2
    | .sneVxKk x kk => t.pc = if s.reg x ≠ kk then s.pc + 4 else s.pc + 2
    | .seVxVy x y => t.pc = if s.reg x = s.reg y then s.pc + 4 else s.pc + 2
    | .sneVxVy x y => t.pc = if s.reg x ≠ s.reg y then s.pc + 4 else s.pc + 2
    | _ => t.pc = s.pc + 2

/-! ## Invariants -/

/-- Every step keeps memory canonical (assumption log 19), PC at most 0x1002 (R21, the spec's D22:
assumption log 23) and every return address at most 0x1000 (R88, R90; D9: assumption log 11). -/
def Obligations.StepKeepsLegalState : Prop :=
  ∀ s t : State, s.Legal → step s = .next t → t.Legal

/-- The state after reset is legal, whatever the font table and the seed. -/
def Obligations.ResetStateIsLegal : Prop :=
  State.reset.Legal ∧ ∀ (font : FontTable) (seed : Nat), (State.resetWith font seed).Legal

/-- Every transaction of the host but a preset of PC or of a stack entry keeps the state legal (R21,
R135, R144: assumption log 18, 23). -/
def Obligations.TransactionsKeepLegalState : Prop :=
  ∀ (h : Session) (q : Transaction), h.core.Legal →
    (∀ w, q ≠ .preset (.pc w)) → (∀ k w, q ≠ .preset (.stack k w)) →
    (h.apply q).1.core.Legal

/-- Canonical memories that read the same at every address are the same data (R41, R49: the model's
form of memory, assumption log 19). -/
def Obligations.CanonicalMemoryIsUnique : Prop :=
  ∀ m m' : Memory, m.wf = true → m'.wf = true → (∀ a, m.read a = m'.read a) → m = m'

/-! ## Reset and boot -/

/-- R36: the reset values the source states, for every value `font` of the parameter FONT. -/
def Obligations.ResetHasTheStatedValues : Prop :=
  ∀ (font : FontTable) (seed : Nat),
    let s := State.resetWith font seed
    s.pc = 0x200 ∧ s.run = .running ∧
    (∀ c r, FrameBuffer.pixel s.fb c r = false) ∧
    ∀ k : Fin 80, s.mem.read (0x50 + k.val) = font[k.val]

/-- The reset values the spec decides (R37; D4, D5: assumption log 5, 6): all zero. And the state
`State.reset` is that of the default font table (R38, D15: assumption log 3) and of random stream 0
(the model's choice: assumption log 4). -/
def Obligations.ResetHasTheDecidedValues : Prop :=
  (∀ (font : FontTable) (seed : Nat),
    let s := State.resetWith font seed
    (∀ x, s.reg x = 0) ∧ s.i = 0 ∧ s.sp = 0 ∧
    (∀ k : Fin 16, s.stack[k.val] = 0) ∧ s.dt = 0 ∧ s.st = 0 ∧
    ∀ a, ¬ (0x50 ≤ a ∧ a ≤ 0x9F) → s.mem.read a = 0) ∧
  State.reset = State.resetWith defaultFont 0

/-- A step before any load halts, whatever the font table, since memory at 0x200 is zero (R143; D5:
assumption log 6). -/
def Obligations.StepBeforeLoadHalts : Prop :=
  ∀ (font : FontTable) (seed : Nat),
    let s := State.resetWith font seed
    step s = .next { s with run := .halted }

/-- A load of at most 0xE00 bytes, while it is allowed, writes them from 0x200 and changes nothing
else (R144; D18: assumption log 17). -/
def Obligations.LoadWritesTheProgram : Prop :=
  ∀ (h : Session) (bytes : List Byte), h.loadOpen = true → bytes.length ≤ 0xE00 →
    ∃ g : Session, h.apply (.load bytes) = (g, .done) ∧ g.loadOpen = false ∧
      (∀ k (hk : k < bytes.length), g.core.mem.read (0x200 + k) = bytes[k]) ∧
      (∀ a, ¬ (0x200 ≤ a ∧ a < 0x200 + bytes.length) → g.core.mem.read a = h.core.mem.read a) ∧
      SameExcept [.mem] h.core g.core

/-- R120: the load fails with ProgramTooLarge exactly where it would exceed the address space. That
nothing is written then is R144, and when a load is allowed is the spec's decision D18 (assumption
log 17). -/
def Obligations.LoadFailsWhenTooLarge : Prop :=
  ∀ (h : Session) (bytes : List Byte), h.loadOpen = true →
    ((h.apply (.load bytes)).2 = .error .programTooLarge ↔ 4096 < 0x200 + bytes.length) ∧
    (4096 < 0x200 + bytes.length → (h.apply (.load bytes)).1.core = h.core)

/-- After a load or a step, and until a reset, a load is refused and changes nothing (R140, D18; that
a failed load counts as the one call is the model's choice: assumption log 17). -/
def Obligations.SecondLoadIsRefused : Prop :=
  ∀ (h : Session) (first : Transaction) (qs : List Transaction) (bytes : List Byte),
    (first = .step ∨ ∃ bs, first = .load bs) → (∀ q ∈ qs, ∀ font seed, q ≠ .reset font seed) →
    ((h.apply first).1.applyAll qs).1.apply (.load bytes) =
      (((h.apply first).1.applyAll qs).1, .refused .loadOutsideContract)

/-! ## Control -/

/-- R86: HALT sets RUN and changes nothing else, in every state. -/
def Obligations.HaltCompletes : Prop :=
  ∀ s : State, ∃ t, exec .halt s = .next t ∧ t.run = .halted ∧ SameExcept [.run] s t

/-- R87: CLS makes every pixel false and advances, in every state. -/
def Obligations.ClsClearsTheDisplay : Prop :=
  ∀ s : State, ∃ t, exec .cls s = .next t ∧ (∀ c r, FrameBuffer.pixel t.fb c r = false) ∧
    t.pc = s.pc + 2 ∧ SameExcept [.fb, .pc] s t

/-- R89: JP sets PC to nnn, odd or not, and changes nothing else, in every state. -/
def Obligations.JpJumps : Prop :=
  ∀ (nnn : Address12) (s : State), ∃ t, exec (.jp nnn) s = .next t ∧ t.pc.toNat = nnn.toNat ∧
    SameExcept [.pc] s t

/-- R91 to R94: the four skips advance by 4 where their condition holds and by 2 where it does not,
and change nothing else, in every state. -/
def Obligations.SkipsAdvanceByFourOrTwo : Prop :=
  ∀ (x y : Reg) (kk : Byte) (s : State),
    (∃ t, exec (.seVxKk x kk) s = .next t ∧
      t.pc = (if s.reg x = kk then s.pc + 4 else s.pc + 2) ∧ SameExcept [.pc] s t) ∧
    (∃ t, exec (.sneVxKk x kk) s = .next t ∧
      t.pc = (if s.reg x = kk then s.pc + 2 else s.pc + 4) ∧ SameExcept [.pc] s t) ∧
    (∃ t, exec (.seVxVy x y) s = .next t ∧
      t.pc = (if s.reg x = s.reg y then s.pc + 4 else s.pc + 2) ∧ SameExcept [.pc] s t) ∧
    (∃ t, exec (.sneVxVy x y) s = .next t ∧
      t.pc = (if s.reg x = s.reg y then s.pc + 2 else s.pc + 4) ∧ SameExcept [.pc] s t)

/-- R90: on a stack that is not full, CALL pushes PC + 2 (the spec's reading C2, D9: assumption log
11), jumps, and changes no other stack entry and nothing else. -/
def Obligations.CallPushesAndJumps : Prop :=
  ∀ (nnn : Address12) (s : State), s.sp.val < 16 →
    ∃ t, exec (.call nnn) s = .next t ∧ t.sp.val = s.sp.val + 1 ∧ t.pc.toNat = nnn.toNat ∧
      (∀ k : Fin 16, t.stack[k.val] = if k.val = s.sp.val then s.pc + 2 else s.stack[k.val]) ∧
      SameExcept [.stack, .pc] s t

/-- R88: on a stack that is not empty, RET takes PC from the top entry, with no further advance
(D9: assumption log 11), and leaves the entries as they are (D10: assumption log 12). -/
def Obligations.RetPopsPc : Prop :=
  ∀ (s : State) (top : Fin 16), s.sp.val = top.val + 1 →
    ∃ t, exec .ret s = .next t ∧ t.sp.val = top.val ∧ t.pc = s.stack[top.val] ∧
      t.stack = s.stack ∧ SameExcept [.stack, .pc] s t

/-- R118: CALL answers StackOverflow exactly where the stack already holds 16 entries. -/
def Obligations.CallOverflowsOnAFullStack : Prop :=
  ∀ (nnn : Address12) (s : State), exec (.call nnn) s = .fault .stackOverflow ↔ s.sp.val = 16

/-- R119: RET answers StackUnderflow exactly where the stack is empty. -/
def Obligations.RetUnderflowsOnAnEmptyStack : Prop :=
  ∀ s : State, exec .ret s = .fault .stackUnderflow ↔ s.sp.val = 0

/-- A RET from any state with the stack a CALL left returns to the instruction after the CALL and
restores SP (R88, R90; C2, D9: assumption log 11). -/
def Obligations.RetReturnsAfterTheCall : Prop :=
  ∀ (nnn : Address12) (s t u : State), exec (.call nnn) s = .next t →
    u.sp = t.sp → u.stack = t.stack →
    ∃ v, exec .ret u = .next v ∧ v.pc = s.pc + 2 ∧ v.sp = s.sp

/-! ## Arithmetic and logic -/

/-- R97: the word 6xkk is LD Vx, kk, which puts kk in V[x], VF included, in every state. -/
def Obligations.LdVxKkLoadsTheImmediate : Prop :=
  ∀ (x : Reg) (kk : Byte) (s : State),
    (∀ w : Word, w.toNat = 0x6000 + x.val * 256 + kk.toNat → decodeWord w = .ok (.ldVxKk x kk)) ∧
    ∃ t, exec (.ldVxKk x kk) s = .next t ∧ t.reg x = kk ∧ t.pc = s.pc + 2 ∧
      SameRegsExcept [x] s t ∧ SameExcept [.v, .pc] s t

/-- R98: ADD Vx, kk wraps modulo 256 and touches no register but V[x], so VF only where x = 15. -/
def Obligations.AddVxKkWrapsWithoutFlag : Prop :=
  ∀ (x : Reg) (kk : Byte) (s : State),
    ∃ t, exec (.addVxKk x kk) s = .next t ∧
      (t.reg x).toNat = ((s.reg x).toNat + kk.toNat) % 256 ∧ t.pc = s.pc + 2 ∧
      SameRegsExcept [x] s t ∧ SameExcept [.v, .pc] s t

/-- R99 to R102: LD Vx,Vy, OR, AND and XOR write V[x] alone, so VF only where x = 15. -/
def Obligations.CopyAndLogicWriteVxAlone : Prop :=
  ∀ (x y : Reg) (s : State),
    (∃ t, exec (.ldVxVy x y) s = .next t ∧ t.reg x = s.reg y ∧ t.pc = s.pc + 2 ∧
      SameRegsExcept [x] s t ∧ SameExcept [.v, .pc] s t) ∧
    (∃ t, exec (.or x y) s = .next t ∧
      (∀ b : Fin 8, (t.reg x).getLsbD b.val = ((s.reg x).getLsbD b.val || (s.reg y).getLsbD b.val)) ∧
      t.pc = s.pc + 2 ∧ SameRegsExcept [x] s t ∧ SameExcept [.v, .pc] s t) ∧
    (∃ t, exec (.and x y) s = .next t ∧
      (∀ b : Fin 8, (t.reg x).getLsbD b.val = ((s.reg x).getLsbD b.val && (s.reg y).getLsbD b.val)) ∧
      t.pc = s.pc + 2 ∧ SameRegsExcept [x] s t ∧ SameExcept [.v, .pc] s t) ∧
    (∃ t, exec (.xor x y) s = .next t ∧
      (∀ b : Fin 8, (t.reg x).getLsbD b.val = ((s.reg x).getLsbD b.val ^^ (s.reg y).getLsbD b.val)) ∧
      t.pc = s.pc + 2 ∧ SameRegsExcept [x] s t ∧ SameExcept [.v, .pc] s t)

/-- R103: ADD Vx, Vy writes the sum mod 256 to V[x] and the carry to VF. Where x = 15 VF ends as the
carry: the spec's decision D6 (R96; assumption log 10). -/
def Obligations.AddVxVyWritesSumAndCarry : Prop :=
  ∀ (x y : Reg) (s : State),
    ∃ t, exec (.addVxVy x y) s = .next t ∧
      (x ≠ 15 → (t.reg x).toNat = ((s.reg x).toNat + (s.reg y).toNat) % 256) ∧
      t.reg 15 = (if 255 < (s.reg x).toNat + (s.reg y).toNat then 1 else 0) ∧
      t.pc = s.pc + 2 ∧ SameRegsExcept [x, 15] s t ∧ SameExcept [.v, .pc] s t

/-- R104: SUB writes the difference mod 256 to V[x] and the absence of a borrow to VF. Where x = 15
VF ends as the flag: the spec's decision D6 (R96; assumption log 10). -/
def Obligations.SubWritesDifferenceAndNotBorrow : Prop :=
  ∀ (x y : Reg) (s : State),
    ∃ t, exec (.sub x y) s = .next t ∧
      (x ≠ 15 → (t.reg x).toNat = (256 + (s.reg x).toNat - (s.reg y).toNat) % 256) ∧
      t.reg 15 = (if (s.reg y).toNat ≤ (s.reg x).toNat then 1 else 0) ∧
      t.pc = s.pc + 2 ∧ SameRegsExcept [x, 15] s t ∧ SameExcept [.v, .pc] s t

/-- R105, R106, R72: SHR and SHL shift V[x] by one, put the bit shifted out in VF, and do not depend
on y. Where x = 15 VF ends as the flag: the spec's decision D6 (R96; assumption log 10). -/
def Obligations.ShiftsMoveOneBitIntoVf : Prop :=
  ∀ (x y : Reg) (s : State),
    (∃ t, exec (.shr x y) s = .next t ∧
      (x ≠ 15 → (t.reg x).toNat = (s.reg x).toNat / 2) ∧
      (t.reg 15).toNat = (s.reg x).toNat % 2 ∧
      t.pc = s.pc + 2 ∧ SameRegsExcept [x, 15] s t ∧ SameExcept [.v, .pc] s t) ∧
    (∃ t, exec (.shl x y) s = .next t ∧
      (x ≠ 15 → (t.reg x).toNat = 2 * (s.reg x).toNat % 256) ∧
      (t.reg 15).toNat = (s.reg x).toNat / 128 ∧
      t.pc = s.pc + 2 ∧ SameRegsExcept [x, 15] s t ∧ SameExcept [.v, .pc] s t) ∧
    ∀ y' : Reg, exec (.shr x y') s = exec (.shr x y) s ∧ exec (.shl x y') s = exec (.shl x y) s

/-! ## Index register, random byte, sprites -/

/-- R107 and R112: LD I puts nnn in I; ADD I adds V[x] mod 2^16 (the spec's decision D8: assumption
log 14). Neither checks I or writes a register of V, in every state. -/
def Obligations.IndexRegisterIsLoadedAndAdded : Prop :=
  (∀ (nnn : Address12) (s : State), ∃ t, exec (.ldI nnn) s = .next t ∧ t.i.toNat = nnn.toNat ∧
    t.pc = s.pc + 2 ∧ SameExcept [.i, .pc] s t) ∧
  (∀ (x : Reg) (s : State), ∃ t, exec (.addIVx x) s = .next t ∧
    t.i.toNat = (s.i.toNat + (s.reg x).toNat) % 65536 ∧
    t.pc = s.pc + 2 ∧ SameExcept [.i, .pc] s t)

/-- R108: RND puts the next random byte AND kk in V[x] and consumes the byte whatever kk is. It holds
for every random stream: `Config.rngByte` has no body (D16: assumption log 4). -/
def Obligations.RndDrawsOneMaskedByte : Prop :=
  ∀ (x : Reg) (kk : Byte) (s : State),
    ∃ t, exec (.rnd x kk) s = .next t ∧
      t.reg x = Config.rngByte s.rngSeed s.rngPos &&& kk ∧
      t.rngSeed = s.rngSeed ∧ t.rngPos = s.rngPos + 1 ∧ t.pc = s.pc + 2 ∧
      SameRegsExcept [x] s t ∧ SameExcept [.v, .pc, .random] s t

/-- R109 to R111: where its rows exist, DRW XORs the sprite's bits into the pixels with wraparound,
sets VF to whether some lit pixel met a 1 bit, and changes nothing else. With n = 0 it draws nothing,
whatever I is. (That no cell is touched twice, so that old pixels are those before the draw, is the
spec's derivation in R110.) -/
def Obligations.DrwXorsTheSprite : Prop :=
  ∀ (x y : Reg) (n : Nat) (s : State), n ≤ 15 → (n = 0 ∨ s.base + n ≤ 4096) →
    ∃ t, exec (.drw x y n) s = .next t ∧
      (∀ c r, FrameBuffer.pixel t.fb c r =
        (FrameBuffer.pixel s.fb c r ^^
          spriteBit (s.reg x) (s.reg y) (s.spriteRows n) c r)) ∧
      ((t.reg 15 = 1 ∧ ∃ c r, FrameBuffer.pixel s.fb c r = true ∧
          spriteBit (s.reg x) (s.reg y) (s.spriteRows n) c r = true) ∨
        (t.reg 15 = 0 ∧ ∀ c r, FrameBuffer.pixel s.fb c r = true →
          spriteBit (s.reg x) (s.reg y) (s.spriteRows n) c r = false)) ∧
      t.pc = s.pc + 2 ∧ SameRegsExcept [15] s t ∧ SameExcept [.v, .fb, .pc] s t

/-- R111 (the spec's derivation, C7): drawing the same rows twice restores every pixel, and the second
draw collides exactly where some cell under a 1 bit was unlit before the first. -/
def Obligations.DrawingTwiceRestores : Prop :=
  ∀ (f : FrameBuffer) (x y : Byte) (rows : List Byte), rows.length ≤ 15 →
    (composite (composite f x y rows).1 x y rows).1 = f ∧
    ((composite (composite f x y rows).1 x y rows).2 = true ↔
      ∃ c r, spriteBit x y rows c r = true ∧ FrameBuffer.pixel f c r = false)

/-! ## Block store and load -/

/-- R117, R45, R48: DRW, LD [I],Vx and LD Vx,[I] fail with the lowest address they would access that
does not exist. Which address is recorded is the spec's decision D11 (assumption log 13). -/
def Obligations.BlockAccessFailsAtTheLowestBadAddress : Prop :=
  ∀ (x y : Reg) (n : Nat) (s : State),
    (0 < n → 4096 < s.base + n →
      ∃ a, exec (.drw x y n) s = .fault (.outOfBounds a) ∧ s.base ≤ a ∧ a < s.base + n ∧
        4096 ≤ a ∧ ∀ b, s.base ≤ b → b < a → b < 4096) ∧
    (4096 < s.base + blockLength x →
      (∃ a, exec (.ldMemVx x) s = .fault (.outOfBounds a) ∧ s.base ≤ a ∧
        a < s.base + blockLength x ∧ 4096 ≤ a ∧ ∀ b, s.base ≤ b → b < a → b < 4096) ∧
      (∃ a, exec (.ldVxMem x) s = .fault (.outOfBounds a) ∧ s.base ≤ a ∧
        a < s.base + blockLength x ∧ 4096 ≤ a ∧ ∀ b, s.base ≤ b → b < a → b < 4096))

/-- R113: where its addresses exist, LD [I],Vx stores V0..V[x] at I and up, changes no other byte and
nothing else. The font region and the program are no exception (C4, D14: assumption log 15). -/
def Obligations.LdMemVxStoresTheBlock : Prop :=
  ∀ (x : Reg) (s : State), s.base + blockLength x ≤ 4096 →
    ∃ t, exec (.ldMemVx x) s = .next t ∧
      (∀ k : Reg, k ≤ x → t.mem.read (s.base + k.val) = s.reg k) ∧
      (∀ a, ¬ (s.base ≤ a ∧ a < s.base + blockLength x) → t.mem.read a = s.mem.read a) ∧
      t.pc = s.pc + 2 ∧ SameExcept [.mem, .pc] s t

/-- R114: where its addresses exist, LD Vx,[I] loads V0..V[x] from I and up and leaves the registers
above V[x] and everything else alone. -/
def Obligations.LdVxMemLoadsTheBlock : Prop :=
  ∀ (x : Reg) (s : State), s.base + blockLength x ≤ 4096 →
    ∃ t, exec (.ldVxMem x) s = .next t ∧
      (∀ k : Reg, t.reg k = if k ≤ x then s.mem.read (s.base + k.val) else s.reg k) ∧
      t.pc = s.pc + 2 ∧ SameExcept [.v, .pc] s t

/-- R113 and R114 together: a block that was stored is loaded back, from any later state with that
memory and that I. -/
def Obligations.StoredBlockIsLoadedBack : Prop :=
  ∀ (x : Reg) (s t u : State), exec (.ldMemVx x) s = .next t → u.mem = t.mem → u.i = s.i →
    ∃ v, exec (.ldVxMem x) u = .next v ∧ ∀ k : Reg, k ≤ x → v.reg k = s.reg k

/-- R55 and R147: what LD [I],Vx stored is what a fetch at those addresses reads, with no delay. -/
def Obligations.StoredBytesAreFetched : Prop :=
  ∀ (x : Reg) (s t : State), exec (.ldMemVx x) s = .next t →
    ∀ k k' : Reg, k'.val = k.val + 1 → k' ≤ x →
      fetchWordAt t.mem (s.base + k.val) = .ok (wordOfBytes (s.reg k) (s.reg k'))

/-! ## What changes only by what -/

/-- R31: apart from construction, only a step that runs CLS or DRW changes the frame buffer; the host
may only read it. -/
def Obligations.FrameBufferChangesOnlyByClsAndDrw : Prop :=
  ∀ (h : Session) (q : Transaction), (∀ font seed, q ≠ .reset font seed) →
    (h.apply q).1.core.fb ≠ h.core.fb →
    q = .step ∧ (h.core.fetchInstr = .ok .cls ∨ ∃ x y n, h.core.fetchInstr = .ok (.drw x y n))

/-- R40 and R58: apart from construction and the test port, a byte changes only by a load, at 0x200
and above and so never in the font region, or by a step that runs LD [I],Vx over it. -/
def Obligations.MemoryChangesOnlyByLoadAndStore : Prop :=
  ∀ (h : Session) (q : Transaction) (a : Nat), (∀ font seed, q ≠ .reset font seed) →
    (∀ p, q ≠ .preset p) → (h.apply q).1.core.mem.read a ≠ h.core.mem.read a →
    ((∃ bytes, q = .load bytes) ∧ 0x200 ≤ a) ∨
    (q = .step ∧ ∃ x, h.core.fetchInstr = .ok (.ldMemVx x) ∧ h.core.base ≤ a ∧
      a < h.core.base + blockLength x)

/-- R25 and R26: apart from construction, DT and ST change only by a tick or by the preset of the one
that changes; no step and no load changes either (the test port: assumption log 18). A tick decrements
each, clamped at 0, in Halted too, which is the spec's decision D23 (assumption log 16). -/
def Obligations.TimersChangeOnlyByTickOrPreset : Prop :=
  (∀ (h : Session) (q : Transaction), (∀ font seed, q ≠ .reset font seed) →
    ((h.apply q).1.core.dt ≠ h.core.dt → q = .tick ∨ ∃ b, q = .preset (.dt b)) ∧
    ((h.apply q).1.core.st ≠ h.core.st → q = .tick ∨ ∃ b, q = .preset (.st b))) ∧
  (∀ s t : State, step s = .next t → t.dt = s.dt ∧ t.st = s.st) ∧
  ∀ s : State, s.tick.dt.toNat = s.dt.toNat - 1 ∧ s.tick.st.toNat = s.st.toNat - 1

/-- R22 to R24: only CALL writes a stack entry, only CALL and RET move SP, only LD I and ADD I write
I (that RET does not clear its entry is D10: assumption log 12). -/
def Obligations.StackAndIndexWriters : Prop :=
  ∀ (i : Instr) (s t : State), exec i s = .next t →
    (t.stack ≠ s.stack → ∃ nnn, i = .call nnn) ∧
    (t.sp ≠ s.sp → (∃ nnn, i = .call nnn) ∨ i = .ret) ∧
    (t.i ≠ s.i → (∃ nnn, i = .ldI nnn) ∨ ∃ x, i = .addIVx x)

/-- R16 and R17: a register changes only where the instruction names it as its destination, or where
it is VF and the instruction is one of the five that write VF. -/
def Obligations.RegistersChangeOnlyWhereNamed : Prop :=
  ∀ (i : Instr) (s t : State) (k : Reg), exec i s = .next t → t.reg k ≠ s.reg k →
    writesReg i k ∨ (k = 15 ∧ writesFlag i)

/-- R17: VF after each of the five instructions that write it, always 0 or 1, and VF unchanged by
every other instruction that does not name it as its destination. Where x = 15 the values of ADD, SUB,
SHR and SHL rest on the spec's decision D6, that the flag is written last (R96: assumption log 10). -/
def Obligations.VfIsWrittenByExactlyFive : Prop :=
  ∀ (i : Instr) (s t : State), exec i s = .next t →
    (match i with
    | .addVxVy x y => t.reg 15 = if 255 < (s.reg x).toNat + (s.reg y).toNat then 1 else 0
    | .sub x y => t.reg 15 = if (s.reg y).toNat ≤ (s.reg x).toNat then 1 else 0
    | .shr x _ => t.reg 15 = if (s.reg x).getLsbD 0 then 1 else 0
    | .shl x _ => t.reg 15 = if (s.reg x).getLsbD 7 then 1 else 0
    | .drw x y n => t.reg 15 =
        if (composite s.fb (s.reg x) (s.reg y) (s.spriteRows n)).2 then 1 else 0
    | j => ¬ writesReg j 15 → t.reg 15 = s.reg 15) ∧
    (writesFlag i → t.reg 15 = 0 ∨ t.reg 15 = 1)

/-- R128: RND takes the next byte of the random port, and no other instruction advances it. -/
def Obligations.OnlyRndConsumesARandomByte : Prop :=
  ∀ (i : Instr) (s t : State), exec i s = .next t →
    t.rngSeed = s.rngSeed ∧
    ((∃ x kk, i = .rnd x kk ∧ t.rngPos = s.rngPos + 1 ∧
        t.reg x = Config.rngByte s.rngSeed s.rngPos &&& kk) ∨
      ((∀ x kk, i ≠ .rnd x kk) ∧ t.rngPos = s.rngPos))

/-! ## What an instruction cannot see -/

/-- R18 (and R16 for the other registers): a register that an instruction does not name as a source
does not matter to it. Changing it, VF included, changes neither the outcome nor anything but the
register itself. That SHR and SHL do not read V[y], VF included, is R72 and C3 (assumption log 29). -/
def Obligations.UnnamedRegistersDoNotMatter : Prop :=
  ∀ (i : Instr) (k : Reg) (b : Byte) (s : State), ¬ readsReg i k →
    OutcomesAgree (SameButReg k) (exec i s) (exec i (s.setReg k b))

/-- R24: no step can see the stack entries at index SP and above (D10: assumption log 12). -/
def Obligations.StaleStackEntriesDoNotMatter : Prop :=
  ∀ s t : State, SameButStale s t → OutcomesAgree SameButStale (step s) (step t)

/-- R127 (D19: assumption log 16): a tick before a step or after it gives the same state, so no
program can observe the tick schedule. -/
def Obligations.TicksDoNotDisturbSteps : Prop :=
  ∀ s : State, OutcomesAgree (fun t u => u = t.tick) (step s) (step s.tick)

/-- R126 and R127 (D23: assumption log 16): n ticks decrement DT and ST n times, floored at 0,
whatever RUN is, and change nothing else. -/
def Obligations.EachTickIsOneDecrement : Prop :=
  ∀ (h : Session) (n : Nat),
    (h.applyAll (List.replicate n .tick)).1 = { h with core := { h.core with
      dt := BitVec.ofNat 8 (h.core.dt.toNat - n)
      st := BitVec.ofNat 8 (h.core.st.toNat - n) } }

/-! ## The debug port and the end of a run -/

/-- R134 (D25: assumption log 20): the debug stream is FetchWord(PC + 2k) for as long as the word lies
in memory. -/
def Obligations.DebugWordsAreTheFetchesFromPc : Prop :=
  ∀ (s : State) (k : Nat), s.debugWords[k]? =
    match fetchWordAt s.mem (s.pc.toNat + 2 * k) with
    | .ok w => some w
    | .error _ => none

/-- R139: a run ends in one way: one that has halted never ends in error. That a step taken after
Halted answers no error is R76, the spec's decision D12 (assumption log 2). -/
def Obligations.HaltedRunNeverFails : Prop :=
  ∀ (s : State) (k j : Nat) (e : Fault), HaltsAfter s k → ¬ FailsAfter s j e
end

