-- ==== Sys2Proof/Laws/Decode.lean ====
section
/-! SUPPORT. Fields of encoded words, and masked words as arithmetic. -/

namespace Sys2Proof

/-! ## Fields as arithmetic -/

theorem fieldOp_toNat (w : Word) : (fieldOp w).toNat = w.toNat / 4096 := by
  have := w.isLt
  simp only [fieldOp, BitVec.extractLsb'_toNat, Nat.shiftRight_eq_div_pow]
  omega

theorem fieldX_val (w : Word) : (fieldX w).val = w.toNat / 256 % 16 := by
  simp [fieldX, Nat.shiftRight_eq_div_pow]

theorem fieldY_val (w : Word) : (fieldY w).val = w.toNat / 16 % 16 := by
  simp [fieldY, Nat.shiftRight_eq_div_pow]

theorem fieldN_eq (w : Word) : fieldN w = w.toNat % 16 := by
  simp [fieldN]

theorem fieldKk_toNat (w : Word) : (fieldKk w).toNat = w.toNat % 256 := by
  simp [fieldKk]

theorem fieldNnn_toNat (w : Word) : (fieldNnn w).toNat = w.toNat % 4096 := by
  simp [fieldNnn]

/-- The height a word holds is at most 15. -/
theorem fieldN_le (w : Word) : fieldN w ≤ 15 := by
  rw [fieldN_eq]
  omega

/-! ## Encoded words as arithmetic -/

theorem wordNnn_toNat (op : Nat) (nnn : Address12) (h : op < 16) :
    (wordNnn op nnn).toNat = op * 4096 + nnn.toNat := by
  have := nnn.isLt
  simp only [wordNnn, BitVec.toNat_ofNat]
  omega

theorem wordXKk_toNat (op : Nat) (x : Reg) (kk : Byte) (h : op < 16) :
    (wordXKk op x kk).toNat = op * 4096 + x.val * 256 + kk.toNat := by
  have := kk.isLt
  simp only [wordXKk, BitVec.toNat_ofNat]
  omega

theorem wordXYN_toNat (op : Nat) (x y : Reg) (n : Nat) (h : op < 16) :
    (wordXYN op x y n).toNat = op * 4096 + x.val * 256 + y.val * 16 + n % 16 := by
  simp only [wordXYN, BitVec.toNat_ofNat]
  omega

/-! ## Masks of the opcode table -/

theorem and_0xF000_toNat (w : Word) : (w &&& 0xF000).toNat = w.toNat / 4096 * 4096 := by
  have h : w &&& (0xF000 : Word) = (w >>> 12) <<< 12 := by
    apply BitVec.eq_of_getLsbD_eq
    intro i hi
    interval_cases i <;> simp
  have := w.isLt
  rw [h, BitVec.toNat_shiftLeft, BitVec.toNat_ushiftRight, Nat.shiftRight_eq_div_pow,
    Nat.shiftLeft_eq]
  omega

/-- Keeping the op nibble and the low bits `m` is keeping each and adding. -/
theorem and_op_low_toNat (w m : Word) (h : 0xF000 &&& m = 0) :
    (w &&& (0xF000 ||| m)).toNat = w.toNat / 4096 * 4096 + (w &&& m).toNat := by
  have hz : (w &&& 0xF000) &&& (w &&& m) = 0 := by
    rw [show (w &&& 0xF000) &&& (w &&& m) = w &&& (0xF000 &&& m) by
      rw [BitVec.and_assoc, ← BitVec.and_assoc (0xF000 : Word), BitVec.and_comm (0xF000 : Word) w,
        BitVec.and_assoc, ← BitVec.and_assoc w w, BitVec.and_self], h]
    simp
  have hadd := BitVec.add_eq_or_of_and_eq_zero _ _ hz
  have hdist : w &&& (0xF000 ||| m) = (w &&& 0xF000) + (w &&& m) := by
    rw [hadd]
    ext i
    simp only [BitVec.getElem_and, BitVec.getElem_or]
    exact Bool.and_or_distrib_left ..
  rw [hdist, BitVec.toNat_add_of_and_eq_zero hz, and_0xF000_toNat]

theorem and_0xF00F_toNat (w : Word) : (w &&& 0xF00F).toNat = w.toNat / 4096 * 4096 + w.toNat % 16 := by
  rw [show (0xF00F : Word) = 0xF000 ||| 0xF by decide, and_op_low_toNat w 0xF (by decide),
    BitVec.toNat_and]
  exact congrArg _ (Nat.and_two_pow_sub_one_eq_mod w.toNat 4)

theorem and_0xF0FF_toNat (w : Word) :
    (w &&& 0xF0FF).toNat = w.toNat / 4096 * 4096 + w.toNat % 256 := by
  rw [show (0xF0FF : Word) = 0xF000 ||| 0xFF by decide, and_op_low_toNat w 0xFF (by decide),
    BitVec.toNat_and]
  exact congrArg _ (Nat.and_two_pow_sub_one_eq_mod w.toNat 8)

theorem and_0xFFFF (w : Word) : w &&& 0xFFFF = w := BitVec.and_allOnes

theorem OpcodeRow.covers_iff (r : OpcodeRow) (w : Word) :
    r.covers w = true ↔ (w &&& r.mask).toNat = r.pattern.toNat := by
  rw [OpcodeRow.covers, beq_iff_eq, BitVec.toNat_inj]

/-! ## Bytes -/

/-- The two bytes of a word put together again are the word. -/
@[simp] theorem wordOfBytes_bytes (w : Word) :
    wordOfBytes (w.extractLsb' 8 8) (w.extractLsb' 0 8) = w := by
  apply BitVec.eq_of_getLsbD_eq
  intro i hi
  refine (BitVec.getLsbD_append (x := w.extractLsb' 8 8) (y := w.extractLsb' 0 8)).trans ?_
  interval_cases i <;> simp

end Sys2Proof
end

