-- ==== Sys2Proof/Laws/Memory.lean ====
section
/-! SUPPORT. Laws of memory: reads after writes, and that every write keeps the canonical form. -/

namespace Sys2Proof.Machine

/-! ## Reading after writing -/

theorem Memory.read_filter (m : Memory) (a b : Nat) :
    Memory.read (m.filter fun c => c.1 != a) b = if b = a then initialByte a else m.read b := by
  induction m with
  | nil => by_cases h : b = a <;> simp [Memory.read, h]
  | cons c rest ih =>
    obtain ⟨ca, cv⟩ := c
    by_cases h : ca = a
    · subst h
      by_cases hb : b = ca
      · subst hb
        simpa using ih
      · simp [Memory.read, ih, hb, Ne.symm hb]
    · by_cases hb : ca = b
      · subst hb
        simp [Memory.read, h]
      · simp [Memory.read, h, hb, ih]

theorem Memory.read_place (m : Memory) (a b : Nat) (v : Byte) (h : ∀ c ∈ m, c.1 ≠ a) :
    (m.place a v).read b = if b = a then v else m.read b := by
  induction m with
  | nil => simp [Memory.place, Memory.read, eq_comm]
  | cons c rest ih =>
    obtain ⟨ca, cv⟩ := c
    have hca : ca ≠ a := h (ca, cv) (by simp)
    have hrest : ∀ d ∈ rest, d.1 ≠ a := fun d hd => h d (by simp [hd])
    unfold Memory.place
    split
    · simp [Memory.read, eq_comm]
    · by_cases hb : ca = b
      · subst hb
        simp [Memory.read, hca]
      · simp [Memory.read, hb, ih hrest]

/-- A read after a write: the byte written at its address, and every other byte as before. -/
@[simp] theorem Memory.read_write (m : Memory) (a b : Nat) (v : Byte) :
    (m.write a v).read b = if b = a then v else m.read b := by
  unfold Memory.write
  by_cases hv : v = initialByte a
  · simp [hv, Memory.read_filter]
  · simp only [hv, if_false]
    rw [Memory.read_place _ _ _ _ (by simp), Memory.read_filter]
    by_cases hb : b = a <;> simp [hb]

/-- A read after a block write. -/
theorem Memory.read_writeBlock (bytes : List Byte) (m : Memory) (a b : Nat) :
    (m.writeBlock a bytes).read b =
      if h : a ≤ b ∧ b < a + bytes.length then bytes[b - a]'(by omega) else m.read b := by
  induction bytes generalizing m a with
  | nil => simp [Memory.writeBlock]
  | cons v rest ih =>
    rw [Memory.writeBlock, ih]
    by_cases h1 : b = a
    · subst h1
      simp
    · by_cases h2 : a + 1 ≤ b ∧ b < a + 1 + rest.length
      · have h3 : a ≤ b ∧ b < a + (rest.length + 1) := by omega
        obtain ⟨k, rfl⟩ : ∃ k, b = a + 1 + k := ⟨b - (a + 1), by omega⟩
        have h4 : a + 1 + k - a = k + 1 := by omega
        have h5 : k < rest.length := by omega
        simp [h3, h4, h5]
      · have h3 : ¬ (a ≤ b ∧ b < a + (rest.length + 1)) := by omega
        rw [dif_neg h2, dif_neg (by simpa using h3), Memory.read_write, if_neg h1]

/-- A block write leaves every address outside its range alone. -/
theorem Memory.read_writeBlock_outside (bytes : List Byte) (m : Memory) (a b : Nat)
    (h : ¬ (a ≤ b ∧ b < a + bytes.length)) : (m.writeBlock a bytes).read b = m.read b := by
  rw [Memory.read_writeBlock, dif_neg h]

@[simp] theorem Memory.length_readBlock (m : Memory) (a n : Nat) : (m.readBlock a n).length = n := by
  simp [Memory.readBlock]

@[simp] theorem Memory.getElem_readBlock (m : Memory) (a n k : Nat) (h : k < (m.readBlock a n).length) :
    (m.readBlock a n)[k] = m.read (a + k) := by
  simp [Memory.readBlock]

/-! ## The canonical form -/

theorem Memory.wf_iff (m : Memory) : m.wf = true ↔ m.Pairwise (fun c d => c.1 < d.1) ∧
    ∀ c ∈ m, c.1 < 4096 ∧ c.2 ≠ initialByte c.1 := by
  simp [Memory.wf]

theorem Memory.mem_place (m : Memory) (a : Nat) (v : Byte) (d : Host.Cell) (h : d ∈ m.place a v) :
    d = (a, v) ∨ d ∈ m := by
  induction m with
  | nil => simpa [Memory.place] using h
  | cons c rest ih =>
    unfold Memory.place at h
    split at h
    · simpa using h
    · rcases List.mem_cons.mp h with h | h
      · exact .inr (by simp [h])
      · exact (ih h).imp_right fun h => by simp [h]

theorem Memory.sorted_place (m : Memory) (a : Nat) (v : Byte) (hne : ∀ c ∈ m, c.1 ≠ a)
    (h : m.Pairwise fun c d => c.1 < d.1) : (m.place a v).Pairwise fun c d => c.1 < d.1 := by
  induction m with
  | nil => simp [Memory.place]
  | cons c rest ih =>
    have hc : c.1 ≠ a := hne c (by simp)
    obtain ⟨hlt, hrest⟩ := List.pairwise_cons.mp h
    unfold Memory.place
    split
    · refine List.pairwise_cons.mpr ⟨fun d hd => ?_, h⟩
      rcases List.mem_cons.mp hd with rfl | hd
      · assumption
      · have := hlt d hd
        simp only at *
        omega
    · refine List.pairwise_cons.mpr ⟨fun d hd => ?_, ih (fun d hd => hne d (by simp [hd])) hrest⟩
      rcases Memory.mem_place rest a v d hd with rfl | hd
      · simp only at *
        omega
      · exact hlt d hd

/-- A write below 4096 keeps the canonical form. -/
theorem Memory.wf_write (m : Memory) (a : Nat) (v : Byte) (ha : a < 4096) (h : m.wf = true) :
    (m.write a v).wf = true := by
  rw [Memory.wf_iff] at h ⊢
  obtain ⟨hs, hc⟩ := h
  have hs' := hs.filter fun c => c.1 != a
  have hc' : ∀ c ∈ m.filter (fun c => c.1 != a), c.1 < 4096 ∧ c.2 ≠ initialByte c.1 :=
    fun c hm => hc c (List.mem_filter.mp hm).1
  unfold Memory.write
  by_cases hv : v = initialByte a
  · simp only [hv, if_true]
    exact ⟨hs', hc'⟩
  · simp only [hv, if_false]
    refine ⟨Memory.sorted_place _ a v (by simp) hs', fun c hm => ?_⟩
    rcases Memory.mem_place _ a v c hm with rfl | hm
    · exact ⟨ha, hv⟩
    · exact hc' c hm

/-- A block write below 4096 keeps the canonical form. -/
theorem Memory.wf_writeBlock (bytes : List Byte) (m : Memory) (a : Nat)
    (ha : a + bytes.length ≤ 4096) (h : m.wf = true) : (m.writeBlock a bytes).wf = true := by
  induction bytes generalizing m a with
  | nil => exact h
  | cons v rest ih =>
    simp only [List.length_cons] at ha
    exact ih _ _ (by omega) (Memory.wf_write m a v (by omega) h)

/-- Storing a byte keeps the canonical form. -/
theorem State.storeByte_wf (s t : State) (a : Nat) (v : Byte) (h : s.storeByte a v = .ok t)
    (hw : s.mem.wf = true) : t.mem.wf = true := by
  unfold State.storeByte at h
  split at h
  · cases h
    exact Memory.wf_write s.mem a v ‹_› hw
  · cases h

/-- Placing a word keeps the canonical form. -/
theorem State.placeWord_wf (s : State) (w : Word) (h : s.mem.wf = true) :
    (s.placeWord w).mem.wf = true := by
  refine Memory.wf_writeBlock (bytesOfWord w) s.mem _ ?_ h
  by_cases hp : s.pc.toNat + 1 < Config.memSize
  · simp only [hp, if_true, bytesOfWord, List.length_cons, List.length_nil]
    simp only [Config.memSize] at hp
    omega
  · simp [hp, bytesOfWord]

/-! ## Construction -/

/-- Memory after construction is canonical. -/
theorem Memory.wf_construct (font : FontTable) : (Memory.construct font).wf = true :=
  Memory.wf_writeBlock font.toList [] Config.fontBase (by simp [Config.fontBase]) rfl

/-- Construction leaves the given table in the font region. -/
theorem Memory.read_construct_font (font : FontTable) (k : Fin 80) :
    (Memory.construct font).read (0x50 + k.val) = font[k.val] := by
  have hk : 0x50 + k.val < 0x50 + 80 := by omega
  simp [Memory.construct, Memory.read_writeBlock, Config.fontBase, hk]

/-- Construction leaves zero outside the font region. -/
theorem Memory.read_construct_outside (font : FontTable) (a : Nat) (h : ¬ (0x50 ≤ a ∧ a ≤ 0x9F)) :
    (Memory.construct font).read a = 0 := by
  have hb : ¬ (0x50 ≤ a ∧ a < 0x50 + 80) := by omega
  rw [Memory.construct, Memory.read_writeBlock_outside _ _ _ _ (by simpa [Config.fontBase] using hb)]
  simp [Memory.read, initialByte, Config.fontBase, Config.fontSize, hb]

/-- With the default table memory lists nothing. -/
@[simp] theorem Memory.construct_default : Memory.construct defaultFont = [] := by decide

/-- `State.reset` is the construction with the default table and the first random stream. -/
theorem State.resetWith_default : State.resetWith defaultFont 0 = State.reset := by
  rw [State.resetWith, Memory.construct_default, State.reset]

end Sys2Proof.Machine
end

