-- ==== Sys2Proof/Laws/State.lean ====
section
/-! SUPPORT. Every field after every update of the state, and every register read after an update that
writes no register: true by rfl, for simp. -/

namespace Sys2Proof.Machine

variable (s : State)

/-! ## Construction -/

@[simp] theorem State.resetWith_v (font : FontTable) (seed : Nat) :
    (State.resetWith font seed).v = State.reset.v := rfl
@[simp] theorem State.resetWith_i (font : FontTable) (seed : Nat) :
    (State.resetWith font seed).i = 0 := rfl
@[simp] theorem State.resetWith_pc (font : FontTable) (seed : Nat) :
    (State.resetWith font seed).pc = 0x200 := rfl
@[simp] theorem State.resetWith_sp (font : FontTable) (seed : Nat) :
    (State.resetWith font seed).sp = 0 := rfl
@[simp] theorem State.resetWith_stack (font : FontTable) (seed : Nat) :
    (State.resetWith font seed).stack = State.reset.stack := rfl
@[simp] theorem State.resetWith_dt (font : FontTable) (seed : Nat) :
    (State.resetWith font seed).dt = 0 := rfl
@[simp] theorem State.resetWith_st (font : FontTable) (seed : Nat) :
    (State.resetWith font seed).st = 0 := rfl
@[simp] theorem State.resetWith_run (font : FontTable) (seed : Nat) :
    (State.resetWith font seed).run = .running := rfl
@[simp] theorem State.resetWith_mem (font : FontTable) (seed : Nat) :
    (State.resetWith font seed).mem = Memory.construct font := rfl
@[simp] theorem State.resetWith_fb (font : FontTable) (seed : Nat) :
    (State.resetWith font seed).fb = FrameBuffer.cleared := rfl
@[simp] theorem State.resetWith_rngSeed (font : FontTable) (seed : Nat) :
    (State.resetWith font seed).rngSeed = seed := rfl
@[simp] theorem State.resetWith_rngPos (font : FontTable) (seed : Nat) :
    (State.resetWith font seed).rngPos = 0 := rfl

/-! ## setReg -/

@[simp] theorem State.setReg_v (x : Reg) (b : Byte) : (s.setReg x b).v = s.v.set x.val b := rfl
@[simp] theorem State.setReg_i (x : Reg) (b : Byte) : (s.setReg x b).i = s.i := rfl
@[simp] theorem State.setReg_pc (x : Reg) (b : Byte) : (s.setReg x b).pc = s.pc := rfl
@[simp] theorem State.setReg_sp (x : Reg) (b : Byte) : (s.setReg x b).sp = s.sp := rfl
@[simp] theorem State.setReg_stack (x : Reg) (b : Byte) : (s.setReg x b).stack = s.stack := rfl
@[simp] theorem State.setReg_dt (x : Reg) (b : Byte) : (s.setReg x b).dt = s.dt := rfl
@[simp] theorem State.setReg_st (x : Reg) (b : Byte) : (s.setReg x b).st = s.st := rfl
@[simp] theorem State.setReg_run (x : Reg) (b : Byte) : (s.setReg x b).run = s.run := rfl
@[simp] theorem State.setReg_mem (x : Reg) (b : Byte) : (s.setReg x b).mem = s.mem := rfl
@[simp] theorem State.setReg_fb (x : Reg) (b : Byte) : (s.setReg x b).fb = s.fb := rfl
@[simp] theorem State.setReg_rngSeed (x : Reg) (b : Byte) : (s.setReg x b).rngSeed = s.rngSeed := rfl
@[simp] theorem State.setReg_rngPos (x : Reg) (b : Byte) : (s.setReg x b).rngPos = s.rngPos := rfl
@[simp] theorem State.base_setReg (x : Reg) (b : Byte) : (s.setReg x b).base = s.base := rfl

/-! ## setFlag -/

@[simp] theorem State.setFlag_v (b : Byte) : (s.setFlag b).v = s.v.set flagReg.val b := rfl
@[simp] theorem State.setFlag_i (b : Byte) : (s.setFlag b).i = s.i := rfl
@[simp] theorem State.setFlag_pc (b : Byte) : (s.setFlag b).pc = s.pc := rfl
@[simp] theorem State.setFlag_sp (b : Byte) : (s.setFlag b).sp = s.sp := rfl
@[simp] theorem State.setFlag_stack (b : Byte) : (s.setFlag b).stack = s.stack := rfl
@[simp] theorem State.setFlag_dt (b : Byte) : (s.setFlag b).dt = s.dt := rfl
@[simp] theorem State.setFlag_st (b : Byte) : (s.setFlag b).st = s.st := rfl
@[simp] theorem State.setFlag_run (b : Byte) : (s.setFlag b).run = s.run := rfl
@[simp] theorem State.setFlag_mem (b : Byte) : (s.setFlag b).mem = s.mem := rfl
@[simp] theorem State.setFlag_fb (b : Byte) : (s.setFlag b).fb = s.fb := rfl
@[simp] theorem State.setFlag_rngSeed (b : Byte) : (s.setFlag b).rngSeed = s.rngSeed := rfl
@[simp] theorem State.setFlag_rngPos (b : Byte) : (s.setFlag b).rngPos = s.rngPos := rfl
@[simp] theorem State.base_setFlag (b : Byte) : (s.setFlag b).base = s.base := rfl

/-! ## setRegsTo -/

@[simp] theorem State.setRegsTo_v (x : Reg) (f : Nat → Byte) : (s.setRegsTo x f).v = Vector.ofFn fun k : Fin 16 => if k ≤ x then f k.val else s.v[k.val] := rfl
@[simp] theorem State.setRegsTo_i (x : Reg) (f : Nat → Byte) : (s.setRegsTo x f).i = s.i := rfl
@[simp] theorem State.setRegsTo_pc (x : Reg) (f : Nat → Byte) : (s.setRegsTo x f).pc = s.pc := rfl
@[simp] theorem State.setRegsTo_sp (x : Reg) (f : Nat → Byte) : (s.setRegsTo x f).sp = s.sp := rfl
@[simp] theorem State.setRegsTo_stack (x : Reg) (f : Nat → Byte) : (s.setRegsTo x f).stack = s.stack := rfl
@[simp] theorem State.setRegsTo_dt (x : Reg) (f : Nat → Byte) : (s.setRegsTo x f).dt = s.dt := rfl
@[simp] theorem State.setRegsTo_st (x : Reg) (f : Nat → Byte) : (s.setRegsTo x f).st = s.st := rfl
@[simp] theorem State.setRegsTo_run (x : Reg) (f : Nat → Byte) : (s.setRegsTo x f).run = s.run := rfl
@[simp] theorem State.setRegsTo_mem (x : Reg) (f : Nat → Byte) : (s.setRegsTo x f).mem = s.mem := rfl
@[simp] theorem State.setRegsTo_fb (x : Reg) (f : Nat → Byte) : (s.setRegsTo x f).fb = s.fb := rfl
@[simp] theorem State.setRegsTo_rngSeed (x : Reg) (f : Nat → Byte) : (s.setRegsTo x f).rngSeed = s.rngSeed := rfl
@[simp] theorem State.setRegsTo_rngPos (x : Reg) (f : Nat → Byte) : (s.setRegsTo x f).rngPos = s.rngPos := rfl
@[simp] theorem State.base_setRegsTo (x : Reg) (f : Nat → Byte) : (s.setRegsTo x f).base = s.base := rfl

/-! ## setStack -/

@[simp] theorem State.setStack_v (k : Vector Word 16) (n : Fin 17) : (s.setStack k n).v = s.v := rfl
@[simp] theorem State.setStack_i (k : Vector Word 16) (n : Fin 17) : (s.setStack k n).i = s.i := rfl
@[simp] theorem State.setStack_pc (k : Vector Word 16) (n : Fin 17) : (s.setStack k n).pc = s.pc := rfl
@[simp] theorem State.setStack_sp (k : Vector Word 16) (n : Fin 17) : (s.setStack k n).sp = n := rfl
@[simp] theorem State.setStack_stack (k : Vector Word 16) (n : Fin 17) : (s.setStack k n).stack = k := rfl
@[simp] theorem State.setStack_dt (k : Vector Word 16) (n : Fin 17) : (s.setStack k n).dt = s.dt := rfl
@[simp] theorem State.setStack_st (k : Vector Word 16) (n : Fin 17) : (s.setStack k n).st = s.st := rfl
@[simp] theorem State.setStack_run (k : Vector Word 16) (n : Fin 17) : (s.setStack k n).run = s.run := rfl
@[simp] theorem State.setStack_mem (k : Vector Word 16) (n : Fin 17) : (s.setStack k n).mem = s.mem := rfl
@[simp] theorem State.setStack_fb (k : Vector Word 16) (n : Fin 17) : (s.setStack k n).fb = s.fb := rfl
@[simp] theorem State.setStack_rngSeed (k : Vector Word 16) (n : Fin 17) : (s.setStack k n).rngSeed = s.rngSeed := rfl
@[simp] theorem State.setStack_rngPos (k : Vector Word 16) (n : Fin 17) : (s.setStack k n).rngPos = s.rngPos := rfl
@[simp] theorem State.reg_setStack (k : Vector Word 16) (n : Fin 17) (x : Reg) :
    (s.setStack k n).reg x = s.reg x := rfl
@[simp] theorem State.base_setStack (k : Vector Word 16) (n : Fin 17) : (s.setStack k n).base = s.base := rfl

/-! ## setI -/

@[simp] theorem State.setI_v (w : Word) : (s.setI w).v = s.v := rfl
@[simp] theorem State.setI_i (w : Word) : (s.setI w).i = w := rfl
@[simp] theorem State.setI_pc (w : Word) : (s.setI w).pc = s.pc := rfl
@[simp] theorem State.setI_sp (w : Word) : (s.setI w).sp = s.sp := rfl
@[simp] theorem State.setI_stack (w : Word) : (s.setI w).stack = s.stack := rfl
@[simp] theorem State.setI_dt (w : Word) : (s.setI w).dt = s.dt := rfl
@[simp] theorem State.setI_st (w : Word) : (s.setI w).st = s.st := rfl
@[simp] theorem State.setI_run (w : Word) : (s.setI w).run = s.run := rfl
@[simp] theorem State.setI_mem (w : Word) : (s.setI w).mem = s.mem := rfl
@[simp] theorem State.setI_fb (w : Word) : (s.setI w).fb = s.fb := rfl
@[simp] theorem State.setI_rngSeed (w : Word) : (s.setI w).rngSeed = s.rngSeed := rfl
@[simp] theorem State.setI_rngPos (w : Word) : (s.setI w).rngPos = s.rngPos := rfl
@[simp] theorem State.reg_setI (w : Word) (k : Reg) : (s.setI w).reg k = s.reg k := rfl

/-! ## setPc -/

@[simp] theorem State.setPc_v (w : Word) : (s.setPc w).v = s.v := rfl
@[simp] theorem State.setPc_i (w : Word) : (s.setPc w).i = s.i := rfl
@[simp] theorem State.setPc_pc (w : Word) : (s.setPc w).pc = w := rfl
@[simp] theorem State.setPc_sp (w : Word) : (s.setPc w).sp = s.sp := rfl
@[simp] theorem State.setPc_stack (w : Word) : (s.setPc w).stack = s.stack := rfl
@[simp] theorem State.setPc_dt (w : Word) : (s.setPc w).dt = s.dt := rfl
@[simp] theorem State.setPc_st (w : Word) : (s.setPc w).st = s.st := rfl
@[simp] theorem State.setPc_run (w : Word) : (s.setPc w).run = s.run := rfl
@[simp] theorem State.setPc_mem (w : Word) : (s.setPc w).mem = s.mem := rfl
@[simp] theorem State.setPc_fb (w : Word) : (s.setPc w).fb = s.fb := rfl
@[simp] theorem State.setPc_rngSeed (w : Word) : (s.setPc w).rngSeed = s.rngSeed := rfl
@[simp] theorem State.setPc_rngPos (w : Word) : (s.setPc w).rngPos = s.rngPos := rfl
@[simp] theorem State.reg_setPc (w : Word) (k : Reg) : (s.setPc w).reg k = s.reg k := rfl
@[simp] theorem State.base_setPc (w : Word) : (s.setPc w).base = s.base := rfl

/-! ## advance -/

@[simp] theorem State.advance_v : s.advance.v = s.v := rfl
@[simp] theorem State.advance_i : s.advance.i = s.i := rfl
@[simp] theorem State.advance_pc : s.advance.pc = s.pc + 2 := rfl
@[simp] theorem State.advance_sp : s.advance.sp = s.sp := rfl
@[simp] theorem State.advance_stack : s.advance.stack = s.stack := rfl
@[simp] theorem State.advance_dt : s.advance.dt = s.dt := rfl
@[simp] theorem State.advance_st : s.advance.st = s.st := rfl
@[simp] theorem State.advance_run : s.advance.run = s.run := rfl
@[simp] theorem State.advance_mem : s.advance.mem = s.mem := rfl
@[simp] theorem State.advance_fb : s.advance.fb = s.fb := rfl
@[simp] theorem State.advance_rngSeed : s.advance.rngSeed = s.rngSeed := rfl
@[simp] theorem State.advance_rngPos : s.advance.rngPos = s.rngPos := rfl
@[simp] theorem State.reg_advance (k : Reg) : s.advance.reg k = s.reg k := rfl
@[simp] theorem State.base_advance : s.advance.base = s.base := rfl

/-! ## skipIf -/

@[simp] theorem State.skipIf_v (c : Bool) : (s.skipIf c).v = s.v := rfl
@[simp] theorem State.skipIf_i (c : Bool) : (s.skipIf c).i = s.i := rfl
@[simp] theorem State.skipIf_pc (c : Bool) : (s.skipIf c).pc = s.pc + if c then 4 else 2 := rfl
@[simp] theorem State.skipIf_sp (c : Bool) : (s.skipIf c).sp = s.sp := rfl
@[simp] theorem State.skipIf_stack (c : Bool) : (s.skipIf c).stack = s.stack := rfl
@[simp] theorem State.skipIf_dt (c : Bool) : (s.skipIf c).dt = s.dt := rfl
@[simp] theorem State.skipIf_st (c : Bool) : (s.skipIf c).st = s.st := rfl
@[simp] theorem State.skipIf_run (c : Bool) : (s.skipIf c).run = s.run := rfl
@[simp] theorem State.skipIf_mem (c : Bool) : (s.skipIf c).mem = s.mem := rfl
@[simp] theorem State.skipIf_fb (c : Bool) : (s.skipIf c).fb = s.fb := rfl
@[simp] theorem State.skipIf_rngSeed (c : Bool) : (s.skipIf c).rngSeed = s.rngSeed := rfl
@[simp] theorem State.skipIf_rngPos (c : Bool) : (s.skipIf c).rngPos = s.rngPos := rfl
@[simp] theorem State.reg_skipIf (c : Bool) (k : Reg) : (s.skipIf c).reg k = s.reg k := rfl
@[simp] theorem State.base_skipIf (c : Bool) : (s.skipIf c).base = s.base := rfl

/-! ## setMem -/

@[simp] theorem State.setMem_v (m : Memory) : (s.setMem m).v = s.v := rfl
@[simp] theorem State.setMem_i (m : Memory) : (s.setMem m).i = s.i := rfl
@[simp] theorem State.setMem_pc (m : Memory) : (s.setMem m).pc = s.pc := rfl
@[simp] theorem State.setMem_sp (m : Memory) : (s.setMem m).sp = s.sp := rfl
@[simp] theorem State.setMem_stack (m : Memory) : (s.setMem m).stack = s.stack := rfl
@[simp] theorem State.setMem_dt (m : Memory) : (s.setMem m).dt = s.dt := rfl
@[simp] theorem State.setMem_st (m : Memory) : (s.setMem m).st = s.st := rfl
@[simp] theorem State.setMem_run (m : Memory) : (s.setMem m).run = s.run := rfl
@[simp] theorem State.setMem_mem (m : Memory) : (s.setMem m).mem = m := rfl
@[simp] theorem State.setMem_fb (m : Memory) : (s.setMem m).fb = s.fb := rfl
@[simp] theorem State.setMem_rngSeed (m : Memory) : (s.setMem m).rngSeed = s.rngSeed := rfl
@[simp] theorem State.setMem_rngPos (m : Memory) : (s.setMem m).rngPos = s.rngPos := rfl
@[simp] theorem State.reg_setMem (m : Memory) (k : Reg) : (s.setMem m).reg k = s.reg k := rfl
@[simp] theorem State.base_setMem (m : Memory) : (s.setMem m).base = s.base := rfl

/-! ## setFb -/

@[simp] theorem State.setFb_v (f : FrameBuffer) : (s.setFb f).v = s.v := rfl
@[simp] theorem State.setFb_i (f : FrameBuffer) : (s.setFb f).i = s.i := rfl
@[simp] theorem State.setFb_pc (f : FrameBuffer) : (s.setFb f).pc = s.pc := rfl
@[simp] theorem State.setFb_sp (f : FrameBuffer) : (s.setFb f).sp = s.sp := rfl
@[simp] theorem State.setFb_stack (f : FrameBuffer) : (s.setFb f).stack = s.stack := rfl
@[simp] theorem State.setFb_dt (f : FrameBuffer) : (s.setFb f).dt = s.dt := rfl
@[simp] theorem State.setFb_st (f : FrameBuffer) : (s.setFb f).st = s.st := rfl
@[simp] theorem State.setFb_run (f : FrameBuffer) : (s.setFb f).run = s.run := rfl
@[simp] theorem State.setFb_mem (f : FrameBuffer) : (s.setFb f).mem = s.mem := rfl
@[simp] theorem State.setFb_fb (f : FrameBuffer) : (s.setFb f).fb = f := rfl
@[simp] theorem State.setFb_rngSeed (f : FrameBuffer) : (s.setFb f).rngSeed = s.rngSeed := rfl
@[simp] theorem State.setFb_rngPos (f : FrameBuffer) : (s.setFb f).rngPos = s.rngPos := rfl
@[simp] theorem State.reg_setFb (f : FrameBuffer) (k : Reg) : (s.setFb f).reg k = s.reg k := rfl
@[simp] theorem State.base_setFb (f : FrameBuffer) : (s.setFb f).base = s.base := rfl

/-! ## halt -/

@[simp] theorem State.halt_v : s.halt.v = s.v := rfl
@[simp] theorem State.halt_i : s.halt.i = s.i := rfl
@[simp] theorem State.halt_pc : s.halt.pc = s.pc := rfl
@[simp] theorem State.halt_sp : s.halt.sp = s.sp := rfl
@[simp] theorem State.halt_stack : s.halt.stack = s.stack := rfl
@[simp] theorem State.halt_dt : s.halt.dt = s.dt := rfl
@[simp] theorem State.halt_st : s.halt.st = s.st := rfl
@[simp] theorem State.halt_run : s.halt.run = .halted := rfl
@[simp] theorem State.halt_mem : s.halt.mem = s.mem := rfl
@[simp] theorem State.halt_fb : s.halt.fb = s.fb := rfl
@[simp] theorem State.halt_rngSeed : s.halt.rngSeed = s.rngSeed := rfl
@[simp] theorem State.halt_rngPos : s.halt.rngPos = s.rngPos := rfl
@[simp] theorem State.reg_halt (k : Reg) : s.halt.reg k = s.reg k := rfl
@[simp] theorem State.base_halt : s.halt.base = s.base := rfl

/-! ## consumeRandom -/

@[simp] theorem State.consumeRandom_v : s.consumeRandom.v = s.v := rfl
@[simp] theorem State.consumeRandom_i : s.consumeRandom.i = s.i := rfl
@[simp] theorem State.consumeRandom_pc : s.consumeRandom.pc = s.pc := rfl
@[simp] theorem State.consumeRandom_sp : s.consumeRandom.sp = s.sp := rfl
@[simp] theorem State.consumeRandom_stack : s.consumeRandom.stack = s.stack := rfl
@[simp] theorem State.consumeRandom_dt : s.consumeRandom.dt = s.dt := rfl
@[simp] theorem State.consumeRandom_st : s.consumeRandom.st = s.st := rfl
@[simp] theorem State.consumeRandom_run : s.consumeRandom.run = s.run := rfl
@[simp] theorem State.consumeRandom_mem : s.consumeRandom.mem = s.mem := rfl
@[simp] theorem State.consumeRandom_fb : s.consumeRandom.fb = s.fb := rfl
@[simp] theorem State.consumeRandom_rngSeed : s.consumeRandom.rngSeed = s.rngSeed := rfl
@[simp] theorem State.consumeRandom_rngPos : s.consumeRandom.rngPos = s.rngPos + 1 := rfl
@[simp] theorem State.reg_consumeRandom (k : Reg) : s.consumeRandom.reg k = s.reg k := rfl
@[simp] theorem State.base_consumeRandom : s.consumeRandom.base = s.base := rfl

/-! ## Registers (10_state.md R15) -/

/-- Writing one register leaves the others alone. -/
@[simp] theorem State.reg_setReg (x k : Reg) (b : Byte) :
    (s.setReg x b).reg k = if k = x then b else s.reg k := by
  simp only [State.reg, State.setReg, Vector.getElem_set, Fin.ext_iff, eq_comm]

@[simp] theorem State.reg_setFlag (k : Reg) (b : Byte) :
    (s.setFlag b).reg k = if k = flagReg then b else s.reg k := State.reg_setReg s flagReg k b

/-- A block load writes the registers up to `x` and no other. -/
@[simp] theorem State.reg_setRegsTo (x k : Reg) (f : Nat → Byte) :
    (s.setRegsTo x f).reg k = if k ≤ x then f k.val else s.reg k := by
  simp [State.reg, State.setRegsTo]

/-- The register files of two states are equal when every register is. -/
theorem State.v_ext (s t : State) (h : ∀ k, s.reg k = t.reg k) : s.v = t.v :=
  Vector.ext fun k hk => h ⟨k, hk⟩

end Sys2Proof.Machine
end

