-- ==== Sys2Proof/Laws/Ops.lean ====
section
/-! SUPPORT. What each shared operation can do, said once: bounds checks, the call stack, fetch, pixels. -/

namespace Sys2Proof.Machine

/-! ## Outcomes -/

@[simp] theorem commit_ok (t : State) : commit (.ok t) = .next t := rfl

@[simp] theorem commit_error (e : Fault) : commit (.error e) = .fault e := rfl

@[simp] theorem raise_eq (e : Fault) : raise e = .fault e := rfl

/-! ## Bounds checks (20_memory.md R44) -/

/-- The first of `n` addresses from `base` that does not exist. -/
theorem firstOutOfBounds_eq (base n : Nat) : firstOutOfBounds base n =
    if n = 0 ∨ base + n ≤ 4096 then none else some (max base 4096) := by
  split
  case isTrue h =>
    simp only [firstOutOfBounds, List.find?_eq_none, List.mem_map, List.mem_range, Config.memSize]
    rintro a ⟨k, hk, rfl⟩
    simp
    omega
  case isFalse h =>
    simp only [firstOutOfBounds, Config.memSize]
    rw [List.find?_eq_some_iff_getElem]
    refine ⟨by simp, max base 4096 - base, by simp; omega, by simp, fun j hj => ?_⟩
    simp
    omega

/-- The addresses exist: the instruction commits. -/
theorem guardRange_ok (base n : Nat) (t : State) (h : n = 0 ∨ base + n ≤ 4096) :
    guardRange base n t = .next t := by
  simp [guardRange, firstOutOfBounds_eq, h]

/-- Some address does not exist: the lowest of them is the error's. -/
theorem guardRange_fault (base n : Nat) (t : State) (h : ¬ (n = 0 ∨ base + n ≤ 4096)) :
    guardRange base n t = .fault (.outOfBounds (max base 4096)) := by
  simp [guardRange, firstOutOfBounds_eq, h]

/-- If a guarded instruction answers a next state, its addresses exist and that state is `t`. -/
theorem guardRange_next (base n : Nat) (t u : State) (h : guardRange base n t = .next u) :
    (n = 0 ∨ base + n ≤ 4096) ∧ u = t := by
  by_cases hb : n = 0 ∨ base + n ≤ 4096
  · rw [guardRange_ok _ _ _ hb] at h
    cases h
    exact ⟨hb, rfl⟩
  · rw [guardRange_fault _ _ _ hb] at h
    cases h

/-! ## Call stack (10_state.md R23, R24) -/

theorem State.push_ok (s : State) (w : Word) (h : s.sp.val < 16) : s.push w =
    .ok (s.setStack (s.stack.set s.sp.val w) ⟨s.sp.val + 1, by omega⟩) := by
  simp [State.push, h]

/-- A stack that has room is one with fewer than 16 entries. -/
theorem State.sp_eq_full (s : State) (h : ¬ s.sp.val < 16) : s.sp = 16 := by
  apply Fin.ext
  have h16 : ((16 : Fin 17) : Nat) = 16 := rfl
  have := s.sp.isLt
  omega

theorem State.push_full (s : State) (w : Word) (h : s.sp = 16) :
    s.push w = .error .stackOverflow := by
  simp [State.push, h]

theorem State.popPc_ok (s : State) (h : s.sp.val ≠ 0) : s.popPc =
    .ok ((s.setStack s.stack ⟨s.sp.val - 1, by omega⟩).setPc
      (s.stack[s.sp.val - 1]'(by have := s.sp.isLt; omega))) := by
  simp only [State.popPc, h, dite_false]

theorem State.popPc_empty (s : State) (h : s.sp = 0) : s.popPc = .error .stackUnderflow := by
  simp [State.popPc, h]

/-! ## Register block (44_load_store.md R113) -/

@[simp] theorem State.length_regBlock (s : State) (x : Reg) :
    (s.regBlock x).length = blockLength x := by
  simp [State.regBlock]

/-- Byte `k` of the block is V[k]. -/
theorem State.getElem_regBlock (s : State) (x : Reg) (k : Nat) (h : k < (s.regBlock x).length) :
    (s.regBlock x)[k] = s.reg (Fin.ofNat 16 k) := by
  simp [State.regBlock]

/-! ## Fetch (40_execution_cycle.md R77) -/

theorem State.fetch_ok (s : State) (h : s.pc.toNat + 1 < 4096) : s.fetch =
    .ok (wordOfBytes (s.mem.read s.pc.toNat) (s.mem.read (s.pc.toNat + 1))) := by
  simp [State.fetch, fetchWordAt, h]

theorem State.fetch_fault (s : State) (h : ¬ s.pc.toNat + 1 < 4096) :
    s.fetch = .error (.outOfBounds s.pc.toNat) := by
  simp [State.fetch, fetchWordAt, h]

/-- An instruction is fetched only from a PC below 0xFFF, and it is what the word there decodes to. -/
theorem State.fetchInstr_ok (s : State) (i : Instr) (h : s.fetchInstr = .ok i) :
    s.pc.toNat + 1 < 4096 ∧
      decodeWord (wordOfBytes (s.mem.read s.pc.toNat) (s.mem.read (s.pc.toNat + 1))) = .ok i := by
  by_cases hp : s.pc.toNat + 1 < 4096
  · refine ⟨hp, ?_⟩
    rw [State.fetchInstr, State.fetch_ok s hp] at h
    simp only at h
    split at h
    · cases h
      assumption
    · cases h
  · rw [State.fetchInstr, State.fetch_fault s hp] at h
    cases h

/-! ## Pixels (10_state.md R30) -/

/-- Setting one pixel leaves the others alone. -/
@[simp] theorem FrameBuffer.pixel_setPixel (f : FrameBuffer) (c c' : Fin 64) (r r' : Fin 32) (b : Bool) :
    FrameBuffer.pixel (FrameBuffer.setPixel f c r b) c' r' =
      if c' = c ∧ r' = r then b else FrameBuffer.pixel f c' r' := by
  simp only [FrameBuffer.pixel, FrameBuffer.setPixel, Vector.getElem_set, Fin.ext_iff]
  by_cases hc : c.val = c'.val
  · by_cases hr : r.val = r'.val
    · simp [hc, hr]
    · simp [hc, hr, Ne.symm hr]
  · simp [hc, Ne.symm hc]

@[simp] theorem FrameBuffer.pixel_cleared (c : Fin 64) (r : Fin 32) :
    FrameBuffer.pixel FrameBuffer.cleared c r = false := by
  simp [FrameBuffer.pixel, FrameBuffer.cleared]

/-- Two frame buffers with the same pixels are equal. -/
theorem FrameBuffer.ext_pixel (f g : FrameBuffer)
    (h : ∀ c r, FrameBuffer.pixel f c r = FrameBuffer.pixel g c r) : f = g :=
  Vector.ext fun c hc => Vector.ext fun r hr => h ⟨c, hc⟩ ⟨r, hr⟩

end Sys2Proof.Machine
end

