-- ==== Sys2Proof/Laws/PerInstr.lean ====
section
/-! SUPPORT. The family EncodesRow: every instruction's word carries the fixed bits of its own row of
the opcode table (30_encoding.md R62). -/

namespace Sys2Proof.Laws

/-- The word of `i` belongs to the row of R62 that has `i`'s number. -/
def EncodesRow.Statement (i : Instr) : Prop :=
  ∃ r ∈ opcodeTable, r.number = i.rowNumber ∧ r.covers (encode i) = true

/-- A word selected by its op nibble alone. -/
theorem EncodesRow.of_op (w : Word) (number : Nat) (pattern : Word) (p : Nat)
    (hp : pattern.toNat = p) (h : w.toNat / 4096 * 4096 = p) :
    (OpcodeRow.mk number 0xF000 pattern).covers w = true := by
  rw [OpcodeRow.covers_iff, and_0xF000_toNat, h, hp]

/-- A word selected by its op nibble and n. -/
theorem EncodesRow.of_op_n (w : Word) (number : Nat) (pattern : Word) (p : Nat)
    (hp : pattern.toNat = p) (h : w.toNat / 4096 * 4096 + w.toNat % 16 = p) :
    (OpcodeRow.mk number 0xF00F pattern).covers w = true := by
  rw [OpcodeRow.covers_iff, and_0xF00F_toNat, h, hp]

/-- A word selected by its op nibble and kk. -/
theorem EncodesRow.of_op_kk (w : Word) (number : Nat) (pattern : Word) (p : Nat)
    (hp : pattern.toNat = p) (h : w.toNat / 4096 * 4096 + w.toNat % 256 = p) :
    (OpcodeRow.mk number 0xF0FF pattern).covers w = true := by
  rw [OpcodeRow.covers_iff, and_0xF0FF_toNat, h, hp]

theorem EncodesRow.halt : EncodesRow.Statement .halt := by
  exact ⟨⟨1, 0xFFFF, 0x0000⟩, by decide, rfl, by decide⟩

theorem EncodesRow.cls : EncodesRow.Statement .cls := by
  exact ⟨⟨2, 0xFFFF, 0x00E0⟩, by decide, rfl, by decide⟩

theorem EncodesRow.ret : EncodesRow.Statement .ret := by
  exact ⟨⟨3, 0xFFFF, 0x00EE⟩, by decide, rfl, by decide⟩

theorem EncodesRow.jp (nnn : Address12) : EncodesRow.Statement (.jp nnn) := by
  refine ⟨⟨4, 0xF000, 0x1000⟩, by decide, rfl, EncodesRow.of_op _ _ _ 0x1000 rfl ?_⟩
  have h : (encode (.jp nnn)).toNat = 0x1 * 4096 + nnn.toNat :=
    wordNnn_toNat 0x1 nnn (by decide)
  rw [h]
  omega

theorem EncodesRow.call (nnn : Address12) : EncodesRow.Statement (.call nnn) := by
  refine ⟨⟨5, 0xF000, 0x2000⟩, by decide, rfl, EncodesRow.of_op _ _ _ 0x2000 rfl ?_⟩
  have h : (encode (.call nnn)).toNat = 0x2 * 4096 + nnn.toNat :=
    wordNnn_toNat 0x2 nnn (by decide)
  rw [h]
  omega

theorem EncodesRow.seVxKk (x : Reg) (kk : Byte) : EncodesRow.Statement (.seVxKk x kk) := by
  refine ⟨⟨6, 0xF000, 0x3000⟩, by decide, rfl, EncodesRow.of_op _ _ _ 0x3000 rfl ?_⟩
  have h : (encode (.seVxKk x kk)).toNat = 0x3 * 4096 + x.val * 256 + kk.toNat :=
    wordXKk_toNat 0x3 x kk (by decide)
  rw [h]
  omega

theorem EncodesRow.sneVxKk (x : Reg) (kk : Byte) : EncodesRow.Statement (.sneVxKk x kk) := by
  refine ⟨⟨7, 0xF000, 0x4000⟩, by decide, rfl, EncodesRow.of_op _ _ _ 0x4000 rfl ?_⟩
  have h : (encode (.sneVxKk x kk)).toNat = 0x4 * 4096 + x.val * 256 + kk.toNat :=
    wordXKk_toNat 0x4 x kk (by decide)
  rw [h]
  omega

theorem EncodesRow.seVxVy (x y : Reg) : EncodesRow.Statement (.seVxVy x y) := by
  refine ⟨⟨8, 0xF00F, 0x5000⟩, by decide, rfl, EncodesRow.of_op_n _ _ _ 0x5000 rfl ?_⟩
  have h : (encode (.seVxVy x y)).toNat = 0x5 * 4096 + x.val * 256 + y.val * 16 + 0x0 % 16 :=
    wordXYN_toNat 0x5 x y 0x0 (by decide)
  rw [h]
  omega

theorem EncodesRow.ldVxKk (x : Reg) (kk : Byte) : EncodesRow.Statement (.ldVxKk x kk) := by
  refine ⟨⟨9, 0xF000, 0x6000⟩, by decide, rfl, EncodesRow.of_op _ _ _ 0x6000 rfl ?_⟩
  have h : (encode (.ldVxKk x kk)).toNat = 0x6 * 4096 + x.val * 256 + kk.toNat :=
    wordXKk_toNat 0x6 x kk (by decide)
  rw [h]
  omega

theorem EncodesRow.addVxKk (x : Reg) (kk : Byte) : EncodesRow.Statement (.addVxKk x kk) := by
  refine ⟨⟨10, 0xF000, 0x7000⟩, by decide, rfl, EncodesRow.of_op _ _ _ 0x7000 rfl ?_⟩
  have h : (encode (.addVxKk x kk)).toNat = 0x7 * 4096 + x.val * 256 + kk.toNat :=
    wordXKk_toNat 0x7 x kk (by decide)
  rw [h]
  omega

theorem EncodesRow.ldVxVy (x y : Reg) : EncodesRow.Statement (.ldVxVy x y) := by
  refine ⟨⟨11, 0xF00F, 0x8000⟩, by decide, rfl, EncodesRow.of_op_n _ _ _ 0x8000 rfl ?_⟩
  have h : (encode (.ldVxVy x y)).toNat = 0x8 * 4096 + x.val * 256 + y.val * 16 + 0x0 % 16 :=
    wordXYN_toNat 0x8 x y 0x0 (by decide)
  rw [h]
  omega

theorem EncodesRow.or (x y : Reg) : EncodesRow.Statement (.or x y) := by
  refine ⟨⟨12, 0xF00F, 0x8001⟩, by decide, rfl, EncodesRow.of_op_n _ _ _ 0x8001 rfl ?_⟩
  have h : (encode (.or x y)).toNat = 0x8 * 4096 + x.val * 256 + y.val * 16 + 0x1 % 16 :=
    wordXYN_toNat 0x8 x y 0x1 (by decide)
  rw [h]
  omega

theorem EncodesRow.and (x y : Reg) : EncodesRow.Statement (.and x y) := by
  refine ⟨⟨13, 0xF00F, 0x8002⟩, by decide, rfl, EncodesRow.of_op_n _ _ _ 0x8002 rfl ?_⟩
  have h : (encode (.and x y)).toNat = 0x8 * 4096 + x.val * 256 + y.val * 16 + 0x2 % 16 :=
    wordXYN_toNat 0x8 x y 0x2 (by decide)
  rw [h]
  omega

theorem EncodesRow.xor (x y : Reg) : EncodesRow.Statement (.xor x y) := by
  refine ⟨⟨14, 0xF00F, 0x8003⟩, by decide, rfl, EncodesRow.of_op_n _ _ _ 0x8003 rfl ?_⟩
  have h : (encode (.xor x y)).toNat = 0x8 * 4096 + x.val * 256 + y.val * 16 + 0x3 % 16 :=
    wordXYN_toNat 0x8 x y 0x3 (by decide)
  rw [h]
  omega

theorem EncodesRow.addVxVy (x y : Reg) : EncodesRow.Statement (.addVxVy x y) := by
  refine ⟨⟨15, 0xF00F, 0x8004⟩, by decide, rfl, EncodesRow.of_op_n _ _ _ 0x8004 rfl ?_⟩
  have h : (encode (.addVxVy x y)).toNat = 0x8 * 4096 + x.val * 256 + y.val * 16 + 0x4 % 16 :=
    wordXYN_toNat 0x8 x y 0x4 (by decide)
  rw [h]
  omega

theorem EncodesRow.sub (x y : Reg) : EncodesRow.Statement (.sub x y) := by
  refine ⟨⟨16, 0xF00F, 0x8005⟩, by decide, rfl, EncodesRow.of_op_n _ _ _ 0x8005 rfl ?_⟩
  have h : (encode (.sub x y)).toNat = 0x8 * 4096 + x.val * 256 + y.val * 16 + 0x5 % 16 :=
    wordXYN_toNat 0x8 x y 0x5 (by decide)
  rw [h]
  omega

theorem EncodesRow.shr (x y : Reg) : EncodesRow.Statement (.shr x y) := by
  refine ⟨⟨17, 0xF00F, 0x8006⟩, by decide, rfl, EncodesRow.of_op_n _ _ _ 0x8006 rfl ?_⟩
  have h : (encode (.shr x y)).toNat = 0x8 * 4096 + x.val * 256 + y.val * 16 + 0x6 % 16 :=
    wordXYN_toNat 0x8 x y 0x6 (by decide)
  rw [h]
  omega

theorem EncodesRow.shl (x y : Reg) : EncodesRow.Statement (.shl x y) := by
  refine ⟨⟨18, 0xF00F, 0x800E⟩, by decide, rfl, EncodesRow.of_op_n _ _ _ 0x800E rfl ?_⟩
  have h : (encode (.shl x y)).toNat = 0x8 * 4096 + x.val * 256 + y.val * 16 + 0xE % 16 :=
    wordXYN_toNat 0x8 x y 0xE (by decide)
  rw [h]
  omega

theorem EncodesRow.sneVxVy (x y : Reg) : EncodesRow.Statement (.sneVxVy x y) := by
  refine ⟨⟨19, 0xF00F, 0x9000⟩, by decide, rfl, EncodesRow.of_op_n _ _ _ 0x9000 rfl ?_⟩
  have h : (encode (.sneVxVy x y)).toNat = 0x9 * 4096 + x.val * 256 + y.val * 16 + 0x0 % 16 :=
    wordXYN_toNat 0x9 x y 0x0 (by decide)
  rw [h]
  omega

theorem EncodesRow.ldI (nnn : Address12) : EncodesRow.Statement (.ldI nnn) := by
  refine ⟨⟨20, 0xF000, 0xA000⟩, by decide, rfl, EncodesRow.of_op _ _ _ 0xA000 rfl ?_⟩
  have h : (encode (.ldI nnn)).toNat = 0xA * 4096 + nnn.toNat :=
    wordNnn_toNat 0xA nnn (by decide)
  rw [h]
  omega

theorem EncodesRow.rnd (x : Reg) (kk : Byte) : EncodesRow.Statement (.rnd x kk) := by
  refine ⟨⟨21, 0xF000, 0xC000⟩, by decide, rfl, EncodesRow.of_op _ _ _ 0xC000 rfl ?_⟩
  have h : (encode (.rnd x kk)).toNat = 0xC * 4096 + x.val * 256 + kk.toNat :=
    wordXKk_toNat 0xC x kk (by decide)
  rw [h]
  omega

theorem EncodesRow.drw (x y : Reg) (n : Nat) : EncodesRow.Statement (.drw x y n) := by
  refine ⟨⟨22, 0xF000, 0xD000⟩, by decide, rfl, EncodesRow.of_op _ _ _ 0xD000 rfl ?_⟩
  have h : (encode (.drw x y n)).toNat = 0xD * 4096 + x.val * 256 + y.val * 16 + n % 16 :=
    wordXYN_toNat 0xD x y n (by decide)
  rw [h]
  omega

theorem EncodesRow.addIVx (x : Reg) : EncodesRow.Statement (.addIVx x) := by
  refine ⟨⟨23, 0xF0FF, 0xF01E⟩, by decide, rfl, EncodesRow.of_op_kk _ _ _ 0xF01E rfl ?_⟩
  have h : (encode (.addIVx x)).toNat = 0xF * 4096 + x.val * 256 + 0x1E :=
    wordXKk_toNat 0xF x 0x1E (by decide)
  rw [h]
  omega

theorem EncodesRow.ldMemVx (x : Reg) : EncodesRow.Statement (.ldMemVx x) := by
  refine ⟨⟨24, 0xF0FF, 0xF055⟩, by decide, rfl, EncodesRow.of_op_kk _ _ _ 0xF055 rfl ?_⟩
  have h : (encode (.ldMemVx x)).toNat = 0xF * 4096 + x.val * 256 + 0x55 :=
    wordXKk_toNat 0xF x 0x55 (by decide)
  rw [h]
  omega

theorem EncodesRow.ldVxMem (x : Reg) : EncodesRow.Statement (.ldVxMem x) := by
  refine ⟨⟨25, 0xF0FF, 0xF065⟩, by decide, rfl, EncodesRow.of_op_kk _ _ _ 0xF065 rfl ?_⟩
  have h : (encode (.ldVxMem x)).toNat = 0xF * 4096 + x.val * 256 + 0x65 :=
    wordXKk_toNat 0xF x 0x65 (by decide)
  rw [h]
  omega

end Sys2Proof.Laws
end

