-- ==== Sys2Proof/Laws/Step.lean ====
section
/-! SUPPORT. What a step can do, said once: the cases of a step, and the next state of each
instruction that can also raise an error. -/

namespace Sys2Proof.Machine

/-! ## One step (40_execution_cycle.md R80) -/

theorem step_halted (s : State) (h : s.run = .halted) : step s = .next s := by
  simp [step, h]

theorem step_running (s : State) (h : s.run = .running) : step s =
    match s.fetchInstr with
    | .error e => .fault e
    | .ok i => exec i s := by
  unfold step
  rw [h]
  cases s.fetchInstr <;> rfl

/-- If a step answers a next state, either the core was halted and nothing changed, or the
instruction at PC was executed. -/
theorem step_cases (s t : State) (h : step s = .next t) :
    (s.run = .halted ∧ t = s) ∨
      (s.run = .running ∧ s.pc.toNat + 1 < 4096 ∧ ∃ i, s.fetchInstr = .ok i ∧ exec i s = .next t) := by
  cases hr : s.run with
  | halted =>
    rw [step_halted s hr] at h
    cases h
    exact .inl ⟨rfl, rfl⟩
  | running =>
    rw [step_running s hr] at h
    cases hf : s.fetchInstr with
    | error e => simp [hf] at h
    | ok i =>
      simp only [hf] at h
      exact .inr ⟨rfl, (State.fetchInstr_ok s i hf).1, i, rfl, h⟩

/-! ## Instructions that can raise an error: what their next state is -/

theorem execCall_next (nnn : Address12) (s t : State) (h : exec (.call nnn) s = .next t) :
    ∃ hs : s.sp.val < 16, t =
      (s.setStack (s.stack.set s.sp.val (s.pc + 2)) ⟨s.sp.val + 1, by omega⟩).setPc
        (zextAddress nnn) := by
  by_cases hs : s.sp.val < 16
  · simp only [exec, execCall, State.push_ok s _ hs, Except.map, commit_ok] at h
    cases h
    exact ⟨hs, rfl⟩
  · have hf := s.sp_eq_full hs
    simp only [exec, execCall, State.push_full s _ hf, Except.map, commit_error] at h
    cases h

theorem execRet_next (s t : State) (h : exec .ret s = .next t) :
    ∃ _ : s.sp.val ≠ 0, t =
      (s.setStack s.stack ⟨s.sp.val - 1, by omega⟩).setPc
        (s.stack[s.sp.val - 1]'(by have := s.sp.isLt; omega)) := by
  by_cases hs : s.sp.val = 0
  · have hf : s.sp = 0 := Fin.ext hs
    simp only [exec, execRet, State.popPc_empty s hf, commit_error] at h
    cases h
  · simp only [exec, execRet, State.popPc_ok s hs, commit_ok] at h
    cases h
    exact ⟨hs, rfl⟩

theorem execDrw_next (x y : Reg) (n : Nat) (s t : State) (h : exec (.drw x y n) s = .next t) :
    (n = 0 ∨ s.base + n ≤ 4096) ∧
      t = ((s.setFb (composite s.fb (s.reg x) (s.reg y) (s.spriteRows n)).1).setFlag
        (collisionFlag (composite s.fb (s.reg x) (s.reg y) (s.spriteRows n)).2)).advance :=
  guardRange_next _ _ _ _ h

theorem execLdMemVx_next (x : Reg) (s t : State) (h : exec (.ldMemVx x) s = .next t) :
    s.base + blockLength x ≤ 4096 ∧
      t = (s.setMem (s.mem.writeBlock s.base (s.regBlock x))).advance := by
  have := guardRange_next _ _ _ _ h
  unfold blockLength at *
  exact ⟨by omega, this.2⟩

theorem execLdVxMem_next (x : Reg) (s t : State) (h : exec (.ldVxMem x) s = .next t) :
    s.base + blockLength x ≤ 4096 ∧
      t = (s.setRegsTo x fun k => s.mem.read (s.base + k)).advance := by
  have := guardRange_next _ _ _ _ h
  unfold blockLength at *
  exact ⟨by omega, this.2⟩

end Sys2Proof.Machine
end

