-- ==== Sys2Proof/Laws/Session.lean ====
section
/-! SUPPORT. What each transaction of the host can do. -/

namespace Sys2Proof.Machine

variable (s : State)

/-! ## Tick (60_exceptions.md R126): DT and ST, nothing else -/

@[simp] theorem State.tick_v : s.tick.v = s.v := rfl
@[simp] theorem State.tick_i : s.tick.i = s.i := rfl
@[simp] theorem State.tick_pc : s.tick.pc = s.pc := rfl
@[simp] theorem State.tick_sp : s.tick.sp = s.sp := rfl
@[simp] theorem State.tick_stack : s.tick.stack = s.stack := rfl
@[simp] theorem State.tick_run : s.tick.run = s.run := rfl
@[simp] theorem State.tick_mem : s.tick.mem = s.mem := rfl
@[simp] theorem State.tick_fb : s.tick.fb = s.fb := rfl
@[simp] theorem State.tick_rngSeed : s.tick.rngSeed = s.rngSeed := rfl
@[simp] theorem State.tick_rngPos : s.tick.rngPos = s.rngPos := rfl
@[simp] theorem State.tick_reg (k : Reg) : s.tick.reg k = s.reg k := rfl
@[simp] theorem State.tick_base : s.tick.base = s.base := rfl
@[simp] theorem State.tick_fetchInstr : s.tick.fetchInstr = s.fetchInstr := rfl

/-! ## Load (70_reset_and_hazards.md R144) -/

theorem State.load_ok (bytes : List Byte) (h : bytes.length ≤ 0xE00) :
    s.load bytes = .ok (s.setMem (s.mem.writeBlock 0x200 bytes)) := by
  have : ¬ (4096 < 0x200 + bytes.length) := by omega
  simp [State.load, this]

theorem State.load_tooLarge (bytes : List Byte) (h : 0xE00 < bytes.length) :
    s.load bytes = .error .programTooLarge := by
  have : 4096 < 0x200 + bytes.length := by omega
  simp [State.load, this]

/-- A load that is carried out keeps memory canonical. -/
theorem State.load_wf (t : State) (bytes : List Byte) (h : s.load bytes = .ok t)
    (hw : s.mem.wf = true) : t.mem.wf = true := by
  by_cases hl : bytes.length ≤ 0xE00
  · rw [State.load_ok s bytes hl] at h
    cases h
    exact Memory.wf_writeBlock bytes s.mem 0x200 (by omega) hw
  · rw [State.load_tooLarge s bytes (by omega)] at h
    cases h

/-! ## Step (60_exceptions.md R130) -/

/-- A step transaction that answers an error leaves the core as it was. -/
theorem Session.takeStep_error (h : Session) (e : Fault) (he : h.takeStep.2 = .error e) :
    step h.core = .fault e ∧ h.takeStep.1 = { core := h.core, loadOpen := false } := by
  unfold Session.takeStep at *
  cases hs : step h.core with
  | next t =>
    simp only [hs, stepResponse] at he
    cases hr : t.run <;> simp [hr] at he
  | fault f =>
    simp only [hs] at he ⊢
    cases he
    simp
  | refused r => simp [hs] at he

end Sys2Proof.Machine
end

