-- ==== Sys2Proof/Tests/Slice0.lean ====
section
/-! SUPPORT. Tests: words written out bit by bit from 30_encoding.md, the vectors of 95_test_vectors.md
(named in each comment), and a witness for every statement that has hypotheses. -/

namespace Sys2Proof.Tests

open Sys2Proof Sys2Proof.Machine

/-! ## WellFormed: one check, one term it refuses (30_encoding.md R61) -/

theorem test_wf_refuses_height_16 : (Instr.drw 0 0 16).wf = false := by decide
theorem test_wf_accepts_height_15 : (Instr.drw 15 15 15).wf = true := by decide

/-! ## Decode: one word per constructor, from the Encoding line of its rule -/

theorem test_decode_halt : decodeWord 0b0000000000000000 = .ok .halt := by decide
theorem test_decode_cls : decodeWord 0b0000000011100000 = .ok .cls := by decide
theorem test_decode_ret : decodeWord 0b0000000011101110 = .ok .ret := by decide
theorem test_decode_jp : decodeWord 0b0001001011110000 = .ok (.jp 0x2F0) := by decide
theorem test_decode_call : decodeWord 0b0010010000000001 = .ok (.call 0x401) := by decide
theorem test_decode_seVxKk : decodeWord 0b0011001100010000 = .ok (.seVxKk 3 0x10) := by decide
theorem test_decode_sneVxKk : decodeWord 0b0100001100010000 = .ok (.sneVxKk 3 0x10) := by decide
theorem test_decode_seVxVy : decodeWord 0b0101000100100000 = .ok (.seVxVy 1 2) := by decide
theorem test_decode_ldVxKk : decodeWord 0b0110000100000010 = .ok (.ldVxKk 1 0x02) := by decide
theorem test_decode_addVxKk : decodeWord 0b0111111100000001 = .ok (.addVxKk 15 0x01) := by decide
theorem test_decode_ldVxVy : decodeWord 0b1000000101010000 = .ok (.ldVxVy 1 5) := by decide
theorem test_decode_or : decodeWord 0b1000000100100001 = .ok (.or 1 2) := by decide
theorem test_decode_and : decodeWord 0b1000000100100010 = .ok (.and 1 2) := by decide
theorem test_decode_xor : decodeWord 0b1000000100100011 = .ok (.xor 1 2) := by decide
theorem test_decode_addVxVy : decodeWord 0b1000000100100100 = .ok (.addVxVy 1 2) := by decide
theorem test_decode_sub : decodeWord 0b1000000100100101 = .ok (.sub 1 2) := by decide
theorem test_decode_shr : decodeWord 0b1000000100100110 = .ok (.shr 1 2) := by decide
theorem test_decode_shl : decodeWord 0b1000000100101110 = .ok (.shl 1 2) := by decide
theorem test_decode_sneVxVy : decodeWord 0b1001000100100000 = .ok (.sneVxVy 1 2) := by decide
theorem test_decode_ldI : decodeWord 0b1010001100000000 = .ok (.ldI 0x300) := by decide
theorem test_decode_rnd : decodeWord 0b1100001100001111 = .ok (.rnd 3 0x0F) := by decide
theorem test_decode_drw : decodeWord 0b1101001000110001 = .ok (.drw 2 3 1) := by decide
theorem test_decode_addIVx : decodeWord 0b1111001000011110 = .ok (.addIVx 2) := by decide
theorem test_decode_ldMemVx : decodeWord 0b1111000101010101 = .ok (.ldMemVx 1) := by decide
theorem test_decode_ldVxMem : decodeWord 0b1111000101100101 = .ok (.ldVxMem 1) := by decide

/-- U1 to U5: system words and skips that are no instruction. -/
theorem test_decode_unknown_system : ([0x0123, 0x01E0, 0x00EF, 0x5121, 0x912F] : List Word).all
    (fun w => decodeWord w == .error (.unknownOpcode w)) = true := by decide

/-- U6 to U9: words of families 8, B and E that are no instruction. -/
theorem test_decode_unknown_alu : ([0x8127, 0x8128, 0x812F, 0xB123, 0xE19E, 0xE1A1] : List Word).all
    (fun w => decodeWord w == .error (.unknownOpcode w)) = true := by decide

/-- U10, U11: words of family F that are no instruction. -/
theorem test_decode_unknown_index : ([0xF107, 0xF10A, 0xF115, 0xF118, 0xF129, 0xF133, 0xFFFF] : List Word).all
    (fun w => decodeWord w == .error (.unknownOpcode w)) = true := by decide

/-- E8: the byte at the lower address is the high-order one. -/
theorem test_decode_big_endian : decodeBytes [0x12, 0x34] = .ok (.jp 0x234, []) := by decide

/-! ## Helpers: reset with some registers, memory bytes and I preset -/

/-- Reset with these registers. -/
def withRegs (rs : List (Reg × Byte)) : State := rs.foldl (fun s p => s.setReg p.1 p.2) State.reset

/-- A state with these bytes at I = `a`. -/
def atIndex (s : State) (a : Word) (bytes : List Byte) : State :=
  (s.setI a).setMem (s.mem.writeBlock a.toNat bytes)

/-- What a test looks at in the next state, if there is one. -/
def look {α : Type} (r : Result) (f : State → α) : Option α :=
  match r with
  | .next t => some (f t)
  | .fault _ | .refused _ => none

/-- The error a result is, if it is one. -/
def errorOf (r : Result) : Option Fault :=
  match r with
  | .fault e => some e
  | .next _ | .refused _ => none

/-! ## Control -/

/-- E1. -/
theorem test_halt : look (step State.reset) (fun t => (t.run, t.pc)) = some (.halted, 0x200) := by
  decide

/-- C1, one of its pixels. -/
theorem test_cls : look (exec .cls ((withRegs [(15, 0x55)]).setFb
    (FrameBuffer.setPixel State.reset.fb 63 31 true)))
    (fun t => (FrameBuffer.pixel t.fb 63 31, t.reg 15, t.pc)) = some (false, 0x55, 0x202) := by decide

/-- C3. -/
theorem test_ret : look (exec .ret (State.reset.setStack (State.reset.stack.set 1 0x30A) 2))
    (fun t => (t.sp, t.pc, t.stack[1])) = some (1, 0x30A, 0x30A) := by decide

/-- C2. -/
theorem test_ret_underflow : errorOf (exec .ret State.reset) = some .stackUnderflow := by decide

/-- C5. -/
theorem test_jp_odd : look (exec (.jp 0x301) State.reset) (fun t => t.pc) = some 0x301 := by decide

/-- C9. -/
theorem test_call_sixteenth : look (exec (.call 0x400) (State.reset.setStack State.reset.stack 15))
    (fun t => (t.stack[15], t.sp, t.pc)) = some (0x202, 16, 0x400) := by decide

/-- C7. -/
theorem test_call_overflow :
    errorOf (exec (.call 0x400) (State.reset.setStack State.reset.stack 16)) = some .stackOverflow := by
  decide

/-- C11, C12. -/
theorem test_seVxKk : look (exec (.seVxKk 3 0x10) (withRegs [(3, 0x10)])) (fun t => t.pc) = some 0x204 ∧
    look (exec (.seVxKk 3 0x10) (withRegs [(3, 0x11)])) (fun t => t.pc) = some 0x202 := by decide

/-- C13, C14. -/
theorem test_sneVxKk : look (exec (.sneVxKk 3 0x10) (withRegs [(3, 0x10)])) (fun t => t.pc) = some 0x202 ∧
    look (exec (.sneVxKk 3 0x10) (withRegs [(3, 0x11)])) (fun t => t.pc) = some 0x204 := by decide

/-- C15, C16. -/
theorem test_seVxVy : look (exec (.seVxVy 1 2) (withRegs [(1, 7), (2, 7)])) (fun t => t.pc) = some 0x204 ∧
    look (exec (.seVxVy 1 2) (withRegs [(1, 7), (2, 8)])) (fun t => t.pc) = some 0x202 := by decide

/-- C18, C19. -/
theorem test_sneVxVy : look (exec (.sneVxVy 1 2) (withRegs [(1, 7), (2, 8)])) (fun t => t.pc) = some 0x204 ∧
    look (exec (.sneVxVy 1 2) (withRegs [(1, 7), (2, 7)])) (fun t => t.pc) = some 0x202 := by decide

/-- C21: a skip at 0xFFE, and the fetch after it. -/
theorem test_skip_at_the_top : look (step ((State.reset.setPc 0xFFE).withFetchWord 16 0x3000))
    (fun t => (t.pc, errorOf (step t))) = some (0x1002, some (.outOfBounds 0x1002)) := by decide

/-! ## Registers and arithmetic -/

/-- A1, A2. -/
theorem test_ldVxKk : look (exec (.ldVxKk 1 0x02) State.reset) (fun t => (t.reg 1, t.pc)) = some (0x02, 0x202) ∧
    look (exec (.ldVxKk 15 0xAB) State.reset) (fun t => t.reg 15) = some 0xAB := by decide

/-- A3. -/
theorem test_addVxKk : look (exec (.addVxKk 2 0x03) (withRegs [(2, 0xFE), (15, 0x55)]))
    (fun t => (t.reg 2, t.reg 15)) = some (0x01, 0x55) := by decide

/-- A5. -/
theorem test_ldVxVy : look (exec (.ldVxVy 1 5) (withRegs [(5, 0x3C)])) (fun t => (t.reg 1, t.reg 5)) =
    some (0x3C, 0x3C) := by decide

/-- A6. -/
theorem test_or : look (exec (.or 1 2) (withRegs [(1, 0xF0), (2, 0x0F), (15, 0x55)]))
    (fun t => (t.reg 1, t.reg 15)) = some (0xFF, 0x55) := by decide

/-- A7. -/
theorem test_and : look (exec (.and 1 2) (withRegs [(1, 0xF0), (2, 0x3C), (15, 0x55)]))
    (fun t => (t.reg 1, t.reg 15)) = some (0x30, 0x55) := by decide

/-- A8. -/
theorem test_xor : look (exec (.xor 1 2) (withRegs [(1, 0xF0), (2, 0x3C), (15, 0x55)]))
    (fun t => (t.reg 1, t.reg 15)) = some (0xCC, 0x55) := by decide

/-- A9.1 (W7). -/
theorem test_addVxVy_carry : look (exec (.addVxVy 1 2) (withRegs [(1, 0xFF), (2, 0x01)]))
    (fun t => (t.reg 1, t.reg 15, t.pc)) = some (0x00, 1, 0x202) := by decide

/-- A9.7: the sum is overwritten by the carry. -/
theorem test_addVxVy_into_vf : look (exec (.addVxVy 15 1) (withRegs [(15, 0xFF), (1, 0x02)]))
    (fun t => t.reg 15) = some 1 := by decide

/-- A10.2. -/
theorem test_sub_borrow : look (exec (.sub 1 2) (withRegs [(1, 0x03), (2, 0x05)]))
    (fun t => (t.reg 1, t.reg 15)) = some (0xFE, 0) := by decide

/-- A10.8: y = 15 reads the old VF. -/
theorem test_sub_from_vf : look (exec (.sub 1 15) (withRegs [(1, 0x10), (15, 0x01)]))
    (fun t => (t.reg 1, t.reg 15)) = some (0x0F, 1) := by decide

/-- A11.1, A11.6. -/
theorem test_shr : look (exec (.shr 1 0) (withRegs [(1, 0x81)])) (fun t => (t.reg 1, t.reg 15)) =
      some (0x40, 1) ∧
    look (exec (.shr 1 2) (withRegs [(1, 0x04), (2, 0xFF)])) (fun t => (t.reg 1, t.reg 2, t.reg 15)) =
      some (0x02, 0xFF, 0) := by decide

/-- A12.1, A12.8. -/
theorem test_shl : look (exec (.shl 1 0) (withRegs [(1, 0x81)])) (fun t => (t.reg 1, t.reg 15)) =
      some (0x02, 1) ∧
    look (exec (.shl 15 0) (withRegs [(15, 0x80)])) (fun t => t.reg 15) = some 1 := by decide

/-! ## Index, random, draw -/

/-- D1. -/
theorem test_ldI : look (exec (.ldI 0x300) (State.reset.setI 0x1234)) (fun t => t.i) = some 0x0300 := by
  decide

/-- D7. -/
theorem test_addIVx_wraps : look (exec (.addIVx 0) ((withRegs [(0, 0x01)]).setI 0xFFFF)) (fun t => t.i) =
    some 0x0000 := by decide

/-- D4: kk = 0 gives 0 and the byte is consumed anyway. -/
theorem test_rnd_zero_mask : look (exec (.rnd 3 0x00) State.reset) (fun t => (t.reg 3, t.rngPos)) =
    some (0x00, 1) := by
  simp [exec, execRnd, look, State.reset]

/-- D12: vertical wrap. -/
theorem test_drw_wraps : look (exec (.drw 0 1 2) (atIndex (withRegs [(1, 0x1F)]) 0x300 [0x80, 0x80]))
    (fun t => (FrameBuffer.pixel t.fb 0 31, FrameBuffer.pixel t.fb 0 0, FrameBuffer.pixel t.fb 1 0,
      t.reg 15)) = some (true, true, false, 0) := by decide

/-- D17: partial overlap. -/
theorem test_drw_collides : look (exec (.drw 0 1 1)
    ((atIndex State.reset 0x300 [0xC0]).setFb (FrameBuffer.setPixel State.reset.fb 1 0 true)))
    (fun t => (FrameBuffer.pixel t.fb 0 0, FrameBuffer.pixel t.fb 1 0, t.reg 15)) =
    some (true, false, 1) := by decide

/-- D15: bounds checked first. -/
theorem test_drw_out_of_bounds : errorOf (exec (.drw 0 1 3) (State.reset.setI 0xFFE)) =
    some (.outOfBounds 0x1000) := by decide

/-! ## Block store and load -/

/-- M1. -/
theorem test_ldMemVx : look (exec (.ldMemVx 1) ((withRegs [(0, 0x40), (1, 0xFE)]).setI 0x300))
    (fun t => (t.mem, t.i, t.pc)) = some ([(0x300, 0x40), (0x301, 0xFE)], 0x300, 0x202) := by decide

/-- M9: the font region is writable. -/
theorem test_ldMemVx_font : look (exec (.ldMemVx 0) (State.reset.setI 0x50)) (fun t => t.mem) =
    some [(0x50, 0x00)] := by decide

/-- M6. -/
theorem test_ldVxMem_all : look (exec (.ldVxMem 15) ((State.reset.setI 0x300).setMem [(0x30F, 0xAA)]))
    (fun t => (t.reg 15, t.reg 14, t.i)) = some (0xAA, 0x00, 0x300) := by decide

/-- M8: the lowest failing address. -/
theorem test_ldMemVx_out_of_bounds : errorOf (exec (.ldMemVx 15) (State.reset.setI 0xFF8)) =
    some (.outOfBounds 0x1000) := by decide

/-! ## The step and the ports -/

/-- E4: the address of the word is recorded. -/
theorem test_fetch_out_of_bounds : errorOf (step (State.reset.setPc 0xFFF)) =
    some (.outOfBounds 0xFFF) := by decide

/-- E7: an odd PC is legal. -/
theorem test_odd_pc : look (step ((State.reset.setPc 0x201).withFetchWord 16 0x6107))
    (fun t => (t.reg 1, t.pc)) = some (0x07, 0x203) := by decide

/-- W9. -/
theorem test_unknown_opcode : errorOf (step (State.reset.withFetchWord 16 0xFFFF)) =
    some (.unknownOpcode 0xFFFF) := by decide

/-- T1, T2. -/
theorem test_tick : ({ State.reset with dt := 3, st := 1 } : State).tick =
      { State.reset with dt := 2, st := 0 } ∧ State.reset.tick = State.reset := by decide

/-- L2. -/
theorem test_load : ((Session.fresh defaultFont 0).apply (.load [0x12, 0x34])).1.core.mem =
    [(0x200, 0x12), (0x201, 0x34)] := by decide

/-- D20 of 95_test_vectors.md and glyph A of R38 (FONT, K4). -/
theorem test_font : State.reset.mem.readBlock 0x50 5 = [0xF0, 0x90, 0x90, 0x90, 0xF0] ∧
    State.reset.mem.readBlock 0x82 5 = [0xF0, 0x90, 0xF0, 0x90, 0x90] := by decide

/-- R8, R38: construction takes FONT; here a table whose first byte alone differs from the default. -/
theorem test_font_parameter :
    ((Session.fresh defaultFont 0).apply (.reset (defaultFont.set 0 0x12) 7)).1.core.mem =
      [(0x50, 0x12)] := by decide

/-- R134 near the top of memory: the words at 0xFFB and 0xFFD, none at 0xFFF. -/
theorem test_debugWords : ((State.reset.setPc 0xFFB).setMem [(0xFFC, 0x12)]).debugWords =
    [0x0012, 0x0000] := by decide

/-! ## Witnesses: states and operands that meet the hypotheses of each statement -/

theorem witness_DecodeInvertsEncode : (Instr.drw 15 15 15).wf = true := by decide

theorem witness_EncodeInvertsDecode : decodeWord 0xD23F = .ok (.drw 2 3 15) := by decide

theorem witness_EachWordHasOneOutcome : decodeWord 0xFFFF = .error (.unknownOpcode 0xFFFF) ∧
    (State.reset.withFetchWord 16 0xFFFF).run = .running ∧
    (State.reset.withFetchWord 16 0xFFFF).fetch = .ok 0xFFFF := by decide

theorem witness_InstructionIsTwoBytesBigEndian : (Instr.drw 0 0 0).wf = true := by decide

theorem witness_StepRunsTheDecodedInstruction_halted : State.reset.halt.run = .halted := by decide

theorem witness_StepRunsTheDecodedInstruction_outside : (State.reset.setPc 0xFFF).run = .running ∧
    4096 ≤ (State.reset.setPc 0xFFF).pc.toNat + 1 := by decide

theorem witness_StepRunsTheDecodedInstruction_zero : (State.reset.setPc 0xFFE).run = .running ∧
    (State.reset.setPc 0xFFE).pc.toNat + 1 < 4096 ∧
    wordOfBytes ((State.reset.setPc 0xFFE).mem.read 0xFFE) ((State.reset.setPc 0xFFE).mem.read 0xFFF) =
      0x0000 := by decide

theorem witness_StepRunsTheDecodedInstruction_decoded :
    decodeWord (wordOfBytes ((State.reset.withFetchWord 16 0x6102).mem.read 0x200)
      ((State.reset.withFetchWord 16 0x6102).mem.read 0x201)) = .ok (.ldVxKk 1 2) := by decide

theorem witness_StepRunsTheDecodedInstruction_unknown :
    decodeWord (wordOfBytes ((State.reset.withFetchWord 16 0xB123).mem.read 0x200)
      ((State.reset.withFetchWord 16 0xB123).mem.read 0x201)) = .error (.unknownOpcode 0xB123) := by
  decide

theorem witness_OnlyTheZeroWordHalts_zero : State.reset.run = .running ∧
    State.reset.fetch = .ok 0x0000 ∧ step State.reset = .next State.reset.halt ∧
    State.reset.halt.run = .halted := ⟨rfl, by decide, rfl, rfl⟩

theorem witness_OnlyTheZeroWordHalts_jump :
    (State.reset.withFetchWord 16 0x1200).fetchInstr = .ok (.jp 0x200) ∧
    (0x200 : Address12).toNat = (State.reset.withFetchWord 16 0x1200).pc.toNat := by decide

theorem witness_HaltedIsTerminal_halted : (∀ font seed, Transaction.step ≠ .reset font seed) ∧
    ({ core := State.reset.halt, loadOpen := false } : Session).core.run = .halted :=
  ⟨by simp, rfl⟩

theorem witness_HaltedIsTerminal_running : (Session.fresh defaultFont 0).core.run = .running ∧
    ((Session.fresh defaultFont 0).apply .step).1.core.run = .halted := by decide

theorem witness_HaltedKeepsAllButTimers :
    ({ core := State.reset.halt, loadOpen := false } : Session).core.run = .halted ∧
    ∀ q ∈ [Transaction.step, .tick], q = .step ∨ q = .tick := by decide

theorem witness_ErrorLeavesStateUnchanged_error :
    (({ core := State.reset.setPc 0xFFF, loadOpen := false } : Session).apply .step).2 =
      .error (.outOfBounds 0xFFF) := by decide

theorem witness_ErrorLeavesStateUnchanged_random :
    exec (.rnd 1 0) State.reset = .next (State.reset.consumeRandom.setReg 1 (State.reset.randomByte &&& 0)).advance ∧
    (State.reset.consumeRandom.setReg 1 (State.reset.randomByte &&& 0)).advance.rngPos ≠
      State.reset.rngPos := ⟨rfl, by simp⟩

theorem witness_ErrorRepeats :
    (({ core := State.reset.withFetchWord 16 0xFFFF, loadOpen := false } : Session).apply .step).2 =
      .error (.unknownOpcode 0xFFFF) := by decide

theorem witness_NextPcOfEveryInstruction : exec (.jp 0xFFF) State.reset =
    .next (State.reset.setPc 0xFFF) := by rfl

theorem witness_StepKeepsLegalState : State.reset.Legal ∧
    step State.reset = .next State.reset.halt := ⟨by unfold State.Legal; decide, rfl⟩

theorem witness_TransactionsKeepLegalState : (Session.fresh defaultFont 0).core.Legal ∧
    (∀ w, Transaction.tick ≠ .preset (.pc w)) ∧ ∀ k w, Transaction.tick ≠ .preset (.stack k w) :=
  ⟨by unfold State.Legal; decide, by simp, by simp⟩

theorem witness_CanonicalMemoryIsUnique : Memory.wf [(0x50, 0x00), (0xFFF, 0x01)] = true := by decide

theorem witness_LoadWritesTheProgram : (Session.fresh defaultFont 0).loadOpen = true ∧
    (List.replicate 0xE00 (0x01 : Byte)).length ≤ 0xE00 := ⟨rfl, by rw [List.length_replicate]⟩

theorem witness_LoadFailsWhenTooLarge : (Session.fresh defaultFont 0).loadOpen = true ∧
    4096 < 0x200 + (List.replicate 0xE01 (0x01 : Byte)).length :=
  ⟨rfl, by rw [List.length_replicate]; decide⟩

theorem witness_SecondLoadIsRefused : ∀ q ∈ [Transaction.tick], ∀ font seed, q ≠ .reset font seed := by simp

theorem witness_CallPushesAndJumps : (State.reset.setStack State.reset.stack 15).sp.val < 16 := by decide

theorem witness_RetPopsPc : (State.reset.setStack State.reset.stack 16).sp.val = (15 : Fin 16).val + 1 ∧
    (State.reset.setStack State.reset.stack 1).sp.val = (0 : Fin 16).val + 1 := by decide

theorem witness_RetReturnsAfterTheCall : exec (.call 0x400) State.reset =
    .next ((State.reset.setStack (State.reset.stack.set 0 0x202) 1).setPc 0x400) := by rfl

theorem witness_LdVxKkLoadsTheImmediate :
    (0x6FFF : Word).toNat = 0x6000 + (15 : Reg).val * 256 + (0xFF : Byte).toNat := by decide

theorem witness_flag_results_apart_from_vf : (14 : Reg) ≠ 15 := by decide

theorem witness_DrwXorsTheSprite_empty : 0 ≤ 15 ∧
    (0 = 0 ∨ (State.reset.setI 0xFFFF).base + 0 ≤ 4096) := by decide

theorem witness_DrwXorsTheSprite_top : 15 ≤ 15 ∧
    (15 = 0 ∨ (State.reset.setI 0xFF1).base + 15 ≤ 4096) := by decide

theorem witness_DrawingTwiceRestores : (List.replicate 15 (0x80 : Byte)).length ≤ 15 := by decide

theorem witness_BlockAccessFailsAtTheLowestBadAddress : 0 < 1 ∧
    4096 < (State.reset.setI 0x1000).base + 1 ∧
    4096 < (State.reset.setI 0xFFF).base + blockLength 1 := by decide

theorem witness_block_at_the_top : (State.reset.setI 0xFF0).base + blockLength 15 ≤ 4096 := by decide

theorem witness_StoredBlockIsLoadedBack : exec (.ldMemVx 1) (State.reset.setI 0x300) =
    .next (State.reset.setI 0x300).advance := by rfl

theorem witness_StoredBytesAreFetched : (1 : Reg).val = (0 : Reg).val + 1 ∧ (1 : Reg) ≤ 1 := by decide

theorem witness_FrameBufferChangesOnlyByClsAndDrw :
    (({ core := (State.reset.withFetchWord 16 0x00E0).setFb (FrameBuffer.setPixel State.reset.fb 0 0 true),
        loadOpen := false } : Session).apply .step).1.core.fb ≠
      FrameBuffer.setPixel State.reset.fb 0 0 true := by decide

theorem witness_MemoryChangesOnlyByLoadAndStore_load :
    ((Session.fresh defaultFont 0).apply (.load [0x12])).1.core.mem.read 0x200 ≠
      (Session.fresh defaultFont 0).core.mem.read 0x200 := by decide

theorem witness_MemoryChangesOnlyByLoadAndStore_store :
    (({ core := ((withRegs [(0, 0x40)]).setI 0x300).withFetchWord 16 0xF055, loadOpen := false } :
      Session).apply .step).1.core.mem.read 0x300 ≠ State.reset.mem.read 0x300 := by decide

theorem witness_TimersChangeOnlyByTickOrPreset_preset :
    ((Session.fresh defaultFont 0).apply (.preset (.dt 3))).1.core.dt ≠
      (Session.fresh defaultFont 0).core.dt := by decide

theorem witness_TimersChangeOnlyByTickOrPreset_step : step State.reset = .next State.reset.halt := by rfl

theorem witness_StackAndIndexWriters :
    exec (.ldI 0x300) State.reset = .next (State.reset.setI 0x300).advance ∧
    (State.reset.setI 0x300).advance.i ≠ State.reset.i := ⟨rfl, by decide⟩

theorem witness_RegistersChangeOnlyWhereNamed :
    exec (.ldVxKk 1 5) State.reset = .next (State.reset.setReg 1 5).advance ∧
    (State.reset.setReg 1 5).advance.reg 1 ≠ State.reset.reg 1 := ⟨rfl, by decide⟩

theorem witness_VfIsWrittenByExactlyFive : writesFlag (.shr 1 0) ∧ ¬ writesReg (.ldVxKk 1 5) 15 :=
  ⟨trivial, by unfold writesReg; decide⟩

theorem witness_OnlyRndConsumesARandomByte : exec .cls State.reset =
    .next (State.reset.setFb FrameBuffer.cleared).advance := by rfl

theorem witness_UnnamedRegistersDoNotMatter : ¬ readsReg (.seVxKk 1 5) 15 ∧ ¬ readsReg (.ldMemVx 14) 15 :=
  ⟨by unfold readsReg; decide, by unfold readsReg; decide⟩

theorem witness_StaleStackEntriesDoNotMatter :
    SameButStale State.reset (State.reset.setStack (State.reset.stack.set 0 0x206) 0) :=
  ⟨State.reset.stack.set 0 0x206, rfl, fun k hk => absurd hk (Nat.not_lt_zero k.val)⟩

theorem witness_HaltedRunNeverFails : HaltsAfter State.reset 1 := ⟨State.reset.halt, rfl, rfl⟩

/-- The other way a run can end, so that the statement keeps two real cases apart. -/
theorem witness_FailsAfter : FailsAfter (State.reset.setPc 0xFFF) 0 (.outOfBounds 0xFFF) :=
  ⟨State.reset.setPc 0xFFF, rfl, by rfl⟩

end Sys2Proof.Tests
end

section
/-! SUPPORT. What an instruction that answers a next state has done, said once for all of them: the shape
of that state, and the parts of the state it leaves alone. -/

namespace Sys2Proof.Machine

/-! ## Frames -/

/-- A property of all parts, part by part. -/
theorem Part.forall_iff {P : Part → Prop} : (∀ p, P p) ↔
    P .v ∧ P .i ∧ P .pc ∧ P .stack ∧ P .timers ∧ P .run ∧ P .mem ∧ P .fb ∧ P .random := by
  refine ⟨fun h => ⟨h _, h _, h _, h _, h _, h _, h _, h _, h _⟩, ?_⟩
  rintro ⟨hv, hi, hpc, hstack, htimers, hrun, hmem, hfb, hrandom⟩ p
  cases p <;> assumption

/-- The parts of the state that an instruction may change. -/
def partsWritten : Instr → List Part
  | .halt => [.run]
  | .cls => [.fb, .pc]
  | .ret | .call _ => [.stack, .pc]
  | .jp _ | .seVxKk _ _ | .sneVxKk _ _ | .seVxVy _ _ | .sneVxVy _ _ => [.pc]
  | .ldVxKk _ _ | .addVxKk _ _ | .ldVxVy _ _ | .or _ _ | .and _ _ | .xor _ _ | .addVxVy _ _
  | .sub _ _ | .shr _ _ | .shl _ _ | .ldVxMem _ => [.v, .pc]
  | .ldI _ | .addIVx _ => [.i, .pc]
  | .rnd _ _ => [.v, .pc, .random]
  | .drw _ _ _ => [.v, .fb, .pc]
  | .ldMemVx _ => [.mem, .pc]

/-! ## The shape of the next state -/

/-- `Completes s i t`: from `s` the instruction `i` can end in `t`. Instructions that write the same parts
by the same updates share a case. -/
inductive Completes (s : State) : Instr → State → Prop
  | halt : Completes s .halt s.halt
  | cls : Completes s .cls (s.setFb FrameBuffer.cleared).advance
  | ret (h : s.sp.val ≠ 0) : Completes s .ret ((s.setStack s.stack ⟨s.sp.val - 1, by omega⟩).setPc
      (s.stack[s.sp.val - 1]'(by have := s.sp.isLt; omega)))
  | jp (nnn : Address12) : Completes s (.jp nnn) (s.setPc (zextAddress nnn))
  | call (nnn : Address12) (h : s.sp.val < 16) : Completes s (.call nnn)
      ((s.setStack (s.stack.set s.sp.val (s.pc + 2)) ⟨s.sp.val + 1, by omega⟩).setPc
        (zextAddress nnn))
  | skip {i : Instr} (c : Bool) (hp : partsWritten i = [.pc]) : Completes s i (s.skipIf c)
  | result {i : Instr} {x : Reg} (r : Byte) (hp : partsWritten i = [.v, .pc]) (hx : writesReg i x) :
      Completes s i (s.setReg x r).advance
  | resultFlag {i : Instr} {x : Reg} (r : Byte) (c : Bool) (hp : partsWritten i = [.v, .pc])
      (hx : writesReg i x) (hf : writesFlag i) :
      Completes s i ((s.setReg x r).setFlag (flagOf c)).advance
  | index {i : Instr} (w : Word) (hp : partsWritten i = [.i, .pc]) :
      Completes s i (s.setI w).advance
  | rnd (x : Reg) (kk : Byte) :
      Completes s (.rnd x kk) (s.consumeRandom.setReg x (s.randomByte &&& kk)).advance
  | drw (x y : Reg) (n : Nat) (f : FrameBuffer) (c : Bool) :
      Completes s (.drw x y n) ((s.setFb f).setFlag (flagOf c)).advance
  | ldMemVx (x : Reg) (h : s.base + blockLength x ≤ 4096) : Completes s (.ldMemVx x)
      (s.setMem (s.mem.writeBlock s.base (s.regBlock x))).advance
  | ldVxMem (x : Reg) (f : Nat → Byte) : Completes s (.ldVxMem x) (s.setRegsTo x f).advance

/-- Whatever next state an instruction answers, it is one of these. -/
theorem exec_completes {i : Instr} {s t : State} (h : exec i s = .next t) : Completes s i t := by
  cases i with
  | halt => cases h; exact .halt
  | cls => cases h; exact .cls
  | ret => obtain ⟨hs, rfl⟩ := execRet_next s t h; exact .ret hs
  | jp nnn => cases h; exact .jp nnn
  | call nnn => obtain ⟨hs, rfl⟩ := execCall_next nnn s t h; exact .call nnn hs
  | seVxKk | sneVxKk | seVxVy | sneVxVy => cases h; exact .skip _ rfl
  | ldVxKk | addVxKk | ldVxVy | or | and | xor => cases h; exact .result _ rfl rfl
  | addVxVy | sub | shr | shl => cases h; exact .resultFlag _ _ rfl rfl trivial
  | ldI | addIVx => cases h; exact .index _ rfl
  | rnd x kk => cases h; exact .rnd x kk
  | drw x y n => obtain ⟨-, rfl⟩ := execDrw_next x y n s t h; exact .drw x y n _ _
  | ldMemVx x => obtain ⟨hb, rfl⟩ := execLdMemVx_next x s t h; exact .ldMemVx x hb
  | ldVxMem x => obtain ⟨-, rfl⟩ := execLdVxMem_next x s t h; exact .ldVxMem x _

/-- An instruction leaves every part of the state outside `partsWritten` alone. -/
theorem exec_frame {i : Instr} {s t : State} (h : exec i s = .next t) :
    SameExcept (partsWritten i) s t := by
  cases exec_completes h with
  | halt | cls | ret _ | jp _ | call _ _ | rnd _ _ | drw _ _ _ _ _ | ldMemVx _ _ | ldVxMem _ _ =>
    simp [partsWritten, SameExcept, Part.forall_iff, SamePart]
  | skip _ hp | result _ hp _ | resultFlag _ _ hp _ _ | index _ hp =>
    rw [hp]
    simp [SameExcept, Part.forall_iff, SamePart]

/-- A part that differs afterwards is one the instruction may change. -/
theorem exec_changed {i : Instr} {s t : State} {p : Part} (h : exec i s = .next t)
    (hne : ¬ SamePart s t p) : p ∈ partsWritten i :=
  not_imp_comm.mp (exec_frame h p) hne

/-! ## Which instruction may change a part -/

theorem run_mem_partsWritten (i : Instr) : .run ∈ partsWritten i ↔ i = .halt := by
  cases i <;> simp [partsWritten]

theorem fb_mem_partsWritten (i : Instr) :
    .fb ∈ partsWritten i ↔ i = .cls ∨ ∃ x y n, i = .drw x y n := by
  cases i <;> simp [partsWritten]

theorem mem_mem_partsWritten (i : Instr) : .mem ∈ partsWritten i ↔ ∃ x, i = .ldMemVx x := by
  cases i <;> simp [partsWritten]

theorem stack_mem_partsWritten (i : Instr) :
    .stack ∈ partsWritten i ↔ (∃ nnn, i = .call nnn) ∨ i = .ret := by
  cases i <;> simp [partsWritten]

theorem i_mem_partsWritten (i : Instr) :
    .i ∈ partsWritten i ↔ (∃ nnn, i = .ldI nnn) ∨ ∃ x, i = .addIVx x := by
  cases i <;> simp [partsWritten]

theorem timers_notMem_partsWritten (i : Instr) : .timers ∉ partsWritten i := by
  cases i <;> simp [partsWritten]

end Sys2Proof.Machine
end

section
/-! SUPPORT. The legal states: which updates keep them, and that every step does (10_state.md R21,
41_control.md R88, R90). -/

namespace Sys2Proof.Machine

theorem zextAddress_toNat (nnn : Address12) : (zextAddress nnn).toNat = nnn.toNat := by
  have := nnn.isLt
  simp only [zextAddress, BitVec.toNat_setWidth]
  omega

/-- A jump to an address at most 0x1002 keeps the state legal. -/
theorem State.Legal.setPc {s : State} (hs : s.Legal) (w : Word) (hw : w.toNat ≤ 0x1002) :
    (s.setPc w).Legal := by
  obtain ⟨hmem, -, hstack⟩ := hs
  exact ⟨hmem, hw, hstack⟩

/-- Advancing past an instruction that could be fetched keeps the state legal. -/
theorem State.Legal.advance {s : State} (hs : s.Legal) (hpc : s.pc.toNat + 1 < 4096) :
    s.advance.Legal :=
  hs.setPc _ (by bv_omega)

/-- So does a skip: from 0xFFE, the highest PC that can be fetched, it reaches 0x1002. -/
theorem State.Legal.skipIf {s : State} (hs : s.Legal) (hpc : s.pc.toNat + 1 < 4096) (c : Bool) :
    (s.skipIf c).Legal :=
  hs.setPc _ (by cases c <;> simp only [Bool.false_eq_true, if_false, if_true] <;> bv_omega)

/-- A canonical memory keeps the state legal. -/
theorem State.Legal.setMem {s : State} (hs : s.Legal) {m : Memory} (hm : m.wf = true) :
    (s.setMem m).Legal := by
  obtain ⟨-, hpc, hstack⟩ := hs
  exact ⟨hm, hpc, hstack⟩

/-- A return address at most 0x1000 put on the stack keeps the state legal. -/
theorem State.Legal.setStack {s : State} (hs : s.Legal) (k : Nat) (hk : k < 16) (w : Word)
    (hw : w.toNat ≤ 0x1000) (sp : Fin 17) : (s.setStack (s.stack.set k w) sp).Legal := by
  obtain ⟨hmem, hpc, hstack⟩ := hs
  refine ⟨hmem, hpc, fun j => ?_⟩
  simp only [State.setStack_stack, Vector.getElem_set]
  split
  · exact hw
  · exact hstack j

/-- An instruction fetched in a legal state keeps it legal. An update of a part that `State.Legal` does
not speak of leaves the proposition itself unchanged. -/
theorem Completes.legal {i : Instr} {s t : State} (h : Completes s i t) (hs : s.Legal)
    (hpc : s.pc.toNat + 1 < 4096) : t.Legal := by
  have ⟨hmem, _, hstack⟩ := hs
  cases h with
  | halt => exact hs
  | ret h =>
    have := hstack ⟨s.sp.val - 1, by omega⟩
    refine State.Legal.setPc ?_ _ (Nat.le_trans this (by decide))
    exact hs
  | jp nnn => exact hs.setPc _ (by rw [zextAddress_toNat]; omega)
  | call nnn h =>
    exact (hs.setStack _ h _ (by bv_omega) _).setPc _ (by rw [zextAddress_toNat]; omega)
  | skip c => exact hs.skipIf hpc c
  | ldMemVx x h =>
    exact (hs.setMem (Memory.wf_writeBlock _ _ _ (by simpa using h) hmem)).advance hpc
  | cls | result | resultFlag | index | rnd | drw | ldVxMem =>
    refine State.Legal.advance ?_ hpc
    exact hs

/-- Construction gives a legal state. -/
theorem State.resetWith_legal (font : FontTable) (seed : Nat) : (State.resetWith font seed).Legal :=
  ⟨Memory.wf_construct font, by simp, by simp [State.reset]⟩

end Sys2Proof.Machine
end

section
/-! SETTLED. the invariant `State.Legal`. -/

namespace Sys2Proof.Proofs

open Sys2Proof Sys2Proof.Machine

/-- Settles O14: a halted core stays as it is, and an instruction fetched below 0xFFF keeps the state
legal (`Completes.legal`). -/
theorem stepKeepsLegalState : Obligations.StepKeepsLegalState := by
  intro s t hs h
  obtain ⟨-, rfl⟩ | ⟨-, hpc, i, -, hexec⟩ := step_cases s t h
  · exact hs
  · exact (exec_completes hexec).legal hs hpc

/-- Settles O15, from the construction with any table; `State.reset` is one of them. -/
theorem resetStateIsLegal : Obligations.ResetStateIsLegal :=
  ⟨State.resetWith_default ▸ State.resetWith_legal defaultFont 0, State.resetWith_legal⟩

end Sys2Proof.Proofs
end

section
/-! SUPPORT. What a transaction of the host can do to the core, said once for all of them
(60_exceptions.md R129 to R135). -/

namespace Sys2Proof.Machine

/-! ## The preset port (R135) -/

/-- The part of the state that a preset writes. -/
def presetPart : Preset → Part
  | .reg _ _ => .v
  | .i _ => .i
  | .pc _ => .pc
  | .sp _ | .stack _ _ => .stack
  | .dt _ | .st _ => .timers
  | .mem _ _ => .mem

/-- A byte is stored only at an address that exists, and only memory changes. -/
theorem State.storeByte_ok {s t : State} {a : Nat} {v : Byte} (h : s.storeByte a v = .ok t) :
    a < 4096 ∧ t = s.setMem (s.mem.write a v) := by
  unfold State.storeByte at h
  split at h
  · cases h
    exact ⟨‹_›, rfl⟩
  · cases h

/-- A preset leaves every part but its own alone. -/
theorem State.preset_frame {s t : State} {p : Preset} (h : s.preset p = .ok t) :
    SameExcept [presetPart p] s t := by
  cases p with
  | mem a v =>
    obtain ⟨-, rfl⟩ := State.storeByte_ok h
    simp [presetPart, SameExcept, Part.forall_iff, SamePart]
  | reg | i | pc | sp | stack | dt | st =>
    cases h
    simp [presetPart, SameExcept, Part.forall_iff, SamePart, State.reg]

theorem State.preset_run {s t : State} {p : Preset} (h : s.preset p = .ok t) : t.run = s.run :=
  State.preset_frame h .run (by cases p <;> simp [presetPart])

theorem State.preset_fb {s t : State} {p : Preset} (h : s.preset p = .ok t) : t.fb = s.fb :=
  State.preset_frame h .fb (by cases p <;> simp [presetPart])

/-! ## Transactions -/

/-- `CoreAfter s q t`: a transaction `q` on a session whose core is `s` can leave the core `t`. -/
inductive CoreAfter (s : State) : Transaction → State → Prop
  | kept {q : Transaction} (hq : ∀ font seed, q ≠ .reset font seed) : CoreAfter s q s
  | reset (font : FontTable) (seed : Nat) :
      CoreAfter s (.reset font seed) (State.resetWith font seed)
  | load (bytes : List Byte) (hlen : bytes.length ≤ 0xE00) :
      CoreAfter s (.load bytes) (s.setMem (s.mem.writeBlock 0x200 bytes))
  | step {i : Instr} {t : State} (hrun : s.run = .running) (hpc : s.pc.toNat + 1 < 4096)
      (hfetch : s.fetchInstr = .ok i) (hexec : exec i s = .next t) : CoreAfter s .step t
  | tick : CoreAfter s .tick s.tick
  | preset {p : Preset} {t : State} (h : s.preset p = .ok t) : CoreAfter s (.preset p) t

theorem Session.takeLoad_coreAfter (h : Session) (bytes : List Byte) :
    CoreAfter h.core (.load bytes) (h.takeLoad bytes).1.core := by
  unfold Session.takeLoad
  by_cases hopen : h.loadOpen = true
  · by_cases hlen : bytes.length ≤ 0xE00
    · simpa [hopen, State.load_ok _ _ hlen] using CoreAfter.load bytes hlen
    · simpa [hopen, State.load_tooLarge _ _ (Nat.lt_of_not_le hlen)] using CoreAfter.kept (by simp)
  · simpa [hopen] using CoreAfter.kept (by simp)

theorem Session.takeStep_coreAfter (h : Session) : CoreAfter h.core .step h.takeStep.1.core := by
  unfold Session.takeStep
  cases hstep : Machine.step h.core with
  | next t =>
    obtain ⟨-, rfl⟩ | ⟨hrun, hpc, i, hfetch, hexec⟩ := step_cases _ _ hstep
    · exact .kept (by simp)
    · exact .step hrun hpc hfetch hexec
  | fault | refused => exact .kept (by simp)

theorem Session.takePreset_coreAfter (h : Session) (p : Preset) :
    CoreAfter h.core (.preset p) (h.takePreset p).1.core := by
  unfold Session.takePreset
  cases hp : h.core.preset p with
  | ok t => exact .preset hp
  | error => exact .kept (by simp)

/-- Whatever a transaction leaves of the core, it is one of these. -/
theorem Session.apply_coreAfter (h : Session) (q : Transaction) :
    CoreAfter h.core q (h.apply q).1.core := by
  cases q with
  | reset font seed => exact .reset font seed
  | load bytes => exact h.takeLoad_coreAfter bytes
  | step => exact h.takeStep_coreAfter
  | tick => exact .tick
  | preset p => exact h.takePreset_coreAfter p

/-- Apart from construction, RUN changes only by a step that runs HALT. -/
theorem CoreAfter.run_change {s t : State} {q : Transaction} (e : CoreAfter s q t)
    (hq : ∀ font seed, q ≠ .reset font seed) (hne : t.run ≠ s.run) :
    q = .step ∧ s.run = .running ∧ s.fetchInstr = .ok .halt := by
  cases e with
  | kept | load | tick => exact absurd rfl hne
  | reset font seed => exact absurd rfl (hq font seed)
  | preset h => exact absurd (State.preset_run h) hne
  | step hrun _ hfetch hexec =>
    obtain rfl := (run_mem_partsWritten _).mp (exec_changed hexec hne)
    exact ⟨rfl, hrun, hfetch⟩

/-- Apart from construction, the frame buffer changes only by a step that runs CLS or DRW. -/
theorem CoreAfter.fb_change {s t : State} {q : Transaction} (e : CoreAfter s q t)
    (hq : ∀ font seed, q ≠ .reset font seed) (hne : t.fb ≠ s.fb) :
    q = .step ∧ (s.fetchInstr = .ok .cls ∨ ∃ x y n, s.fetchInstr = .ok (.drw x y n)) := by
  cases e with
  | kept | load | tick => exact absurd rfl hne
  | reset font seed => exact absurd rfl (hq font seed)
  | preset h => exact absurd (State.preset_fb h) hne
  | step _ _ hfetch hexec =>
    obtain rfl | ⟨x, y, n, rfl⟩ := (fb_mem_partsWritten _).mp (exec_changed hexec hne)
    · exact ⟨rfl, .inl hfetch⟩
    · exact ⟨rfl, .inr ⟨x, y, n, hfetch⟩⟩

/-- Apart from construction and the test port, a byte changes only by the load or by LD [I], Vx over
it. -/
theorem CoreAfter.byte_change {s t : State} {q : Transaction} (e : CoreAfter s q t)
    (hq : ∀ font seed, q ≠ .reset font seed) (hp : ∀ p, q ≠ .preset p) {a : Nat}
    (hne : t.mem.read a ≠ s.mem.read a) :
    ((∃ bytes, q = .load bytes) ∧ 0x200 ≤ a) ∨
      (q = .step ∧ ∃ x, s.fetchInstr = .ok (.ldMemVx x) ∧ s.base ≤ a ∧
        a < s.base + blockLength x) := by
  cases e with
  | kept | tick => exact absurd rfl hne
  | reset font seed => exact absurd rfl (hq font seed)
  | preset => exact absurd rfl (hp _)
  | load bytes =>
    have hin := not_imp_comm.mp (Memory.read_writeBlock_outside bytes s.mem 0x200 a) hne
    exact .inl ⟨⟨bytes, rfl⟩, hin.1⟩
  | step _ _ hfetch hexec =>
    obtain ⟨x, rfl⟩ := (mem_mem_partsWritten _).mp (exec_changed hexec fun h => hne (h a))
    obtain ⟨-, rfl⟩ := execLdMemVx_next x s t hexec
    have hin := not_imp_comm.mp (Memory.read_writeBlock_outside (s.regBlock x) s.mem s.base a) hne
    rw [State.length_regBlock] at hin
    exact .inr ⟨rfl, x, hfetch, hin⟩

/-- Apart from construction, a timer changes only by a tick or by its own preset. -/
theorem CoreAfter.timer_change {s t : State} {q : Transaction} (e : CoreAfter s q t)
    (hq : ∀ font seed, q ≠ .reset font seed) :
    (t.dt ≠ s.dt → q = .tick ∨ ∃ b, q = .preset (.dt b)) ∧
      (t.st ≠ s.st → q = .tick ∨ ∃ b, q = .preset (.st b)) := by
  cases e with
  | kept | load => exact ⟨absurd rfl, absurd rfl⟩
  | reset font seed => exact absurd rfl (hq font seed)
  | tick => exact ⟨fun _ => .inl rfl, fun _ => .inl rfl⟩
  | step _ _ _ hexec =>
    obtain ⟨hdt, hst⟩ := exec_frame hexec .timers (timers_notMem_partsWritten _)
    exact ⟨absurd hdt, absurd hst⟩
  | @preset p _ h =>
    cases p with
    | dt b => cases h; exact ⟨fun _ => .inr ⟨b, rfl⟩, absurd rfl⟩
    | st b => cases h; exact ⟨absurd rfl, fun _ => .inr ⟨b, rfl⟩⟩
    | reg | i | pc | sp | stack => cases h; exact ⟨absurd rfl, absurd rfl⟩
    | mem => obtain ⟨-, rfl⟩ := State.storeByte_ok h; exact ⟨absurd rfl, absurd rfl⟩

/-- Every transaction but a preset of PC or of a stack entry keeps the state legal. -/
theorem CoreAfter.legal {s t : State} {q : Transaction} (e : CoreAfter s q t) (hs : s.Legal)
    (hpc : ∀ w, q ≠ .preset (.pc w)) (hstack : ∀ k w, q ≠ .preset (.stack k w)) : t.Legal := by
  have ⟨hmem, _, _⟩ := hs
  cases e with
  | kept | tick => exact hs
  | reset font seed => exact State.resetWith_legal font seed
  | load bytes hlen => exact hs.setMem (Memory.wf_writeBlock bytes s.mem 0x200 (by omega) hmem)
  | step _ hp _ hexec => exact (exec_completes hexec).legal hs hp
  | @preset p _ h =>
    cases p with
    | pc w => exact absurd rfl (hpc w)
    | stack k w => exact absurd rfl (hstack k w)
    | reg | i | sp | dt | st => cases h; exact hs
    | mem a v =>
      obtain ⟨ha, rfl⟩ := State.storeByte_ok h
      exact hs.setMem (Memory.wf_write s.mem a v ha hmem)

/-! ## The halt sentinel (R78) -/

theorem decodeSystem_halt {w : Word} (h : decodeSystem w = .ok .halt) : w = 0 := by
  unfold decodeSystem at h
  split at h
  · assumption
  · (repeat' split at h) <;> cases h

theorem decodeAlu_ne_halt (w : Word) : decodeAlu w ≠ .ok .halt := by
  unfold decodeAlu
  split <;> simp

theorem decodeIndex_ne_halt (w : Word) : decodeIndex w ≠ .ok .halt := by
  unfold decodeIndex
  split <;> simp

/-- The zero word is the only one that decodes to HALT: only family 0x0 holds HALT. -/
theorem decodeWord_halt {w : Word} (h : decodeWord w = .ok .halt) : w = 0 := by
  unfold decodeWord at h
  split at h
  case h_1 => exact decodeSystem_halt h
  case h_6 | h_10 => split at h <;> cases h
  case h_9 => exact absurd h (decodeAlu_ne_halt w)
  case h_14 => exact absurd h (decodeIndex_ne_halt w)
  all_goals cases h

/-- HALT is fetched only as the word 0x0000. -/
theorem State.fetch_of_fetchInstr_halt {s : State} (h : s.fetchInstr = .ok .halt) :
    s.fetch = .ok 0x0000 := by
  obtain ⟨hpc, hdec⟩ := State.fetchInstr_ok s .halt h
  rw [State.fetch_ok s hpc, decodeWord_halt hdec]

/-! ## Tick (R126) -/

/-- A timer one tick later. -/
theorem timer_tick_toNat (b : Byte) : (if 0 < b.toNat then b - 1 else 0).toNat = b.toNat - 1 := by
  split <;> bv_omega

end Sys2Proof.Machine
end

section
/-! SETTLED. what the host's transactions change. -/

namespace Sys2Proof.Proofs

open Sys2Proof Sys2Proof.Machine

/-- Settles O9: a change of RUN is a step that runs HALT (`CoreAfter.run_change`), so it starts from
Running and fetches 0x0000. -/
theorem haltedIsTerminal : Obligations.HaltedIsTerminal := by
  refine ⟨fun _ _ _ => rfl, fun h q hq => ⟨fun hhalted => ?_, fun hrunning hhalted => ?_⟩⟩
  · by_contra hne
    obtain ⟨-, hrun, -⟩ := (h.apply_coreAfter q).run_change hq (by rwa [hhalted])
    rw [hhalted] at hrun
    cases hrun
  · obtain ⟨hstep, -, hfetch⟩ := (h.apply_coreAfter q).run_change hq (by simp [hrunning, hhalted])
    exact ⟨hstep, State.fetch_of_fetchInstr_halt hfetch⟩

/-- Settles O16, transaction by transaction (`CoreAfter.legal`). -/
theorem transactionsKeepLegalState : Obligations.TransactionsKeepLegalState :=
  fun h q hs hpc hstack => (h.apply_coreAfter q).legal hs hpc hstack

/-- Settles O48, from the frames of the transactions and of the instructions (`CoreAfter.fb_change`). -/
theorem frameBufferChangesOnlyByClsAndDrw : Obligations.FrameBufferChangesOnlyByClsAndDrw :=
  fun h q hq hne => (h.apply_coreAfter q).fb_change hq hne

/-- Settles O49: outside the block it writes, a load and a store leave every byte alone
(`CoreAfter.byte_change`). -/
theorem memoryChangesOnlyByLoadAndStore : Obligations.MemoryChangesOnlyByLoadAndStore :=
  fun h q _ hq hp hne => (h.apply_coreAfter q).byte_change hq hp hne

/-- Settles O50: no instruction writes a timer, and a tick is one floored decrement of each. -/
theorem timersChangeOnlyByTickOrPreset : Obligations.TimersChangeOnlyByTickOrPreset := by
  refine ⟨fun h q hq => (h.apply_coreAfter q).timer_change hq, fun s t hstep => ?_,
    fun s => ⟨timer_tick_toNat s.dt, timer_tick_toNat s.st⟩⟩
  obtain ⟨-, rfl⟩ | ⟨-, -, i, -, hexec⟩ := step_cases s t hstep
  · exact ⟨rfl, rfl⟩
  · exact exec_frame hexec .timers (timers_notMem_partsWritten i)

end Sys2Proof.Proofs
end

section
/-! SUPPORT. The registers an instruction writes (10_state.md R16, R17). -/

namespace Sys2Proof.Machine

/-- A register is written only where the instruction names it as its destination, or as VF by one of the
five flag writers. -/
theorem Completes.reg_change {i : Instr} {s t : State} (h : Completes s i t) {k : Reg}
    (hne : t.reg k ≠ s.reg k) : writesReg i k ∨ (k = 15 ∧ writesFlag i) := by
  cases h with
  | halt | cls | ret | jp | call | skip | index | ldMemVx => exact absurd rfl hne
  | @result _ x r _ hx =>
    by_cases hk : k = x
    · exact .inl (hk ▸ hx)
    · simp [hk] at hne
  | @resultFlag _ x r c _ hx hf =>
    by_cases hv : k = 15
    · exact .inr ⟨hv, hf⟩
    by_cases hk : k = x
    · exact .inl (hk ▸ hx)
    · simp [hv, hk] at hne
  | rnd x kk =>
    by_cases hk : k = x
    · exact .inl hk
    · simp [hk] at hne
  | drw x y n f c =>
    by_cases hv : k = 15
    · exact .inr ⟨hv, trivial⟩
    · simp [hv] at hne
  | ldVxMem x f =>
    by_cases hk : k ≤ x
    · exact .inl hk
    · simp [hk] at hne

/-- A register that is no destination, in an instruction that writes no flag, is kept. -/
theorem exec_reg_eq {i : Instr} {s t : State} (h : exec i s = .next t) {k : Reg}
    (hf : ¬ writesFlag i) (hk : ¬ writesReg i k) : t.reg k = s.reg k := by
  by_contra hne
  obtain hw | ⟨-, hw⟩ := (exec_completes h).reg_change hne
  · exact hk hw
  · exact hf hw

/-- VF after an instruction that writes a result and then the flag: the flag, x = 15 included (R96). -/
theorem writeResultFlag_vf {s t : State} {x : Reg} {r f : Byte}
    (h : writeResultFlag s x r f = .next t) : t.reg 15 = f := by
  cases h
  simp

/-- VF after DRW: the collision flag. -/
theorem execDrw_vf {x y : Reg} {n : Nat} {s t : State} (h : exec (.drw x y n) s = .next t) :
    t.reg 15 = collisionFlag (composite s.fb (s.reg x) (s.reg y) (s.spriteRows n)).2 := by
  obtain ⟨-, rfl⟩ := execDrw_next x y n s t h
  simp

/-- A flag is 0 or 1. -/
theorem flagOf_eq_zero_or_one (c : Bool) : flagOf c = 0 ∨ flagOf c = 1 := by
  cases c
  · exact .inl rfl
  · exact .inr rfl

/-- The flag of a condition, as the conditional R17's table writes. -/
theorem flagOf_decide (p : Prop) [Decidable p] : flagOf (decide p) = if p then 1 else 0 := by
  simp [flagOf]

end Sys2Proof.Machine
end

section
/-! SETTLED. the writers of the stack, SP, I and the registers. -/

namespace Sys2Proof.Proofs

open Sys2Proof Sys2Proof.Machine

/-- Settles O51, from the frame of every instruction; RET, which is in the frame for SP, leaves the
entries alone (`execRet_next`). -/
theorem stackAndIndexWriters : Obligations.StackAndIndexWriters := by
  intro i s t h
  refine ⟨fun hne => ?_, fun hne => ?_, fun hne => ?_⟩
  · obtain hcall | rfl := (stack_mem_partsWritten i).mp (exec_changed h fun hs => hne hs.2)
    · exact hcall
    · obtain ⟨_, rfl⟩ := execRet_next s t h
      exact absurd rfl hne
  · exact (stack_mem_partsWritten i).mp (exec_changed h fun hs => hne hs.1)
  · exact (i_mem_partsWritten i).mp (exec_changed h hne)

/-- Settles O52, by the shape of the next state (`Completes.reg_change`). -/
theorem registersChangeOnlyWhereNamed : Obligations.RegistersChangeOnlyWhereNamed :=
  fun _ _ _ _ h hne => (exec_completes h).reg_change hne

/-- Settles O53: the five flag writers end with their flag in VF, the others write no register but their
destinations. -/
theorem vfIsWrittenByExactlyFive : Obligations.VfIsWrittenByExactlyFive := by
  intro i s t h
  refine ⟨?_, fun hf => ?_⟩
  · cases i with
    | addVxVy | sub => exact (writeResultFlag_vf h).trans (flagOf_decide _)
    | shr | shl => exact writeResultFlag_vf h
    | drw => exact execDrw_vf h
    | _ => exact exec_reg_eq h (by simp [writesFlag])
  · cases i with
    | addVxVy | sub | shr | shl => exact writeResultFlag_vf h ▸ flagOf_eq_zero_or_one _
    | drw => exact execDrw_vf h ▸ flagOf_eq_zero_or_one _
    | _ => exact hf.elim

end Sys2Proof.Proofs
end

section
/-! SUPPORT. Two runs of one instruction side by side: outcomes that agree, and CALL and RET by what the
stack holds. -/

namespace Sys2Proof.Machine

/-! ## CALL and RET (41_control.md R88, R90) -/

theorem execCall_ok (nnn : Address12) {s : State} (h : s.sp.val < 16) : exec (.call nnn) s =
    .next ((s.setStack (s.stack.set s.sp.val (s.pc + 2)) ⟨s.sp.val + 1, by omega⟩).setPc
      (zextAddress nnn)) := by
  simp only [exec, execCall, State.push_ok s _ h, Except.map, commit_ok]

theorem execCall_full (nnn : Address12) {s : State} (h : ¬ s.sp.val < 16) :
    exec (.call nnn) s = .fault .stackOverflow := by
  simp only [exec, execCall, State.push_full s _ (s.sp_eq_full h), Except.map, commit_error]

theorem execRet_ok {s : State} (h : s.sp.val ≠ 0) : exec .ret s =
    .next ((s.setStack s.stack ⟨s.sp.val - 1, by omega⟩).setPc
      (s.stack[s.sp.val - 1]'(by have := s.sp.isLt; omega))) := by
  simp only [exec, execRet, State.popPc_ok s h, commit_ok]

theorem execRet_empty {s : State} (h : s.sp.val = 0) : exec .ret s = .fault .stackUnderflow := by
  simp only [exec, execRet, State.popPc_empty s (Fin.ext h), commit_error]

/-! ## Outcomes that agree -/

/-- One bounds check on both sides: the same error, or next states that agree. -/
theorem OutcomesAgree.guardRange {R : State → State → Prop} {t u : State} (h : R t u)
    (base n : Nat) : OutcomesAgree R (guardRange base n t) (guardRange base n u) := by
  by_cases hb : n = 0 ∨ base + n ≤ 4096
  · rw [guardRange_ok _ _ _ hb, guardRange_ok _ _ _ hb]
    exact h
  · rw [guardRange_fault _ _ _ hb, guardRange_fault _ _ _ hb]
    rfl

/-! ## States that differ in one register -/

/-- States with the same other fields and the same other registers differ at most in `V[k]`. -/
theorem SameButReg.of_regs {k : Reg} {s t : State} (hfields : t = { s with v := t.v })
    (hregs : ∀ j, j ≠ k → t.reg j = s.reg j) : SameButReg k s t := by
  have hv : t.v = (s.setReg k (t.reg k)).v := State.v_ext _ _ fun j => by
    by_cases hj : j = k
    · simp [hj]
    · simp [hj, hregs j hj]
  exact ⟨t.reg k, hfields.trans (by rw [hv]; rfl)⟩

theorem SameButReg.advance {k : Reg} {s t : State} (h : SameButReg k s t) :
    SameButReg k s.advance t.advance := by
  obtain ⟨b, rfl⟩ := h
  exact ⟨b, rfl⟩

/-- Writing one byte to one register on both sides. -/
theorem SameButReg.setReg {k : Reg} {s t : State} (h : SameButReg k s t) (x : Reg) (r : Byte) :
    SameButReg k (s.setReg x r) (t.setReg x r) := by
  obtain ⟨b, rfl⟩ := h
  exact .of_regs rfl fun j hj => by simp [hj]

/-- Loading one block of bytes on both sides. -/
theorem SameButReg.setRegsTo {k : Reg} {s t : State} (h : SameButReg k s t) (x : Reg)
    (f : Nat → Byte) : SameButReg k (s.setRegsTo x f) (t.setRegsTo x f) := by
  obtain ⟨b, rfl⟩ := h
  exact .of_regs rfl fun j hj => by simp [hj]

section
variable {k : Reg} {s t : State} (h : SameButReg k s t)
include h

theorem SameButReg.skipIf {c d : Bool} (hc : c = d) :
    OutcomesAgree (SameButReg k) (.next (s.skipIf c)) (.next (t.skipIf d)) := by
  obtain ⟨b, rfl⟩ := h
  exact ⟨b, hc ▸ rfl⟩

theorem SameButReg.writeResult (x : Reg) {r r' : Byte} (hr : r = r') :
    OutcomesAgree (SameButReg k) (writeResult s x r) (writeResult t x r') :=
  hr ▸ (h.setReg x r).advance

theorem SameButReg.writeResultFlag (x : Reg) {r r' f f' : Byte} (hr : r = r') (hf : f = f') :
    OutcomesAgree (SameButReg k) (writeResultFlag s x r f) (writeResultFlag t x r' f') :=
  hr ▸ hf ▸ ((h.setReg x r).setReg flagReg f).advance

/-- CALL and RET read no register. -/
theorem SameButReg.execCall (nnn : Address12) :
    OutcomesAgree (SameButReg k) (exec (.call nnn) s) (exec (.call nnn) t) := by
  obtain ⟨b, rfl⟩ := h
  by_cases hs : s.sp.val < 16
  · rw [execCall_ok nnn hs, execCall_ok nnn (s := s.setReg k b) hs]
    exact ⟨b, rfl⟩
  · rw [execCall_full nnn hs, execCall_full nnn (s := s.setReg k b) hs]
    rfl

theorem SameButReg.execRet :
    OutcomesAgree (SameButReg k) (exec .ret s) (exec .ret t) := by
  obtain ⟨b, rfl⟩ := h
  by_cases hs : s.sp.val = 0
  · rw [execRet_empty hs, execRet_empty (s := s.setReg k b) hs]
    rfl
  · rw [execRet_ok hs, execRet_ok (s := s.setReg k b) hs]
    exact ⟨b, rfl⟩

end

/-- The register block up to `x` is read from the registers up to `x`. -/
theorem State.regBlock_congr {s t : State} {x : Reg} (h : ∀ j, j ≤ x → s.reg j = t.reg j) :
    s.regBlock x = t.regBlock x := by
  refine List.map_congr_left fun k hk => h _ (Fin.le_def.mpr ?_)
  have hle : k ≤ x.val := Nat.le_of_lt_succ (List.mem_range.mp hk)
  exact (Nat.mod_le k 16).trans hle

/-- Two runs of one instruction from states that agree on every register it names as a source. -/
theorem SameButReg.exec {k : Reg} {s t : State} (h : SameButReg k s t) (i : Instr)
    (hread : ∀ j, readsReg i j → s.reg j = t.reg j) :
    OutcomesAgree (SameButReg k) (exec i s) (exec i t) := by
  cases i with
  | halt | cls | jp | ldI =>
    obtain ⟨b, rfl⟩ := h
    exact ⟨b, rfl⟩
  | ret => exact h.execRet
  | call nnn => exact h.execCall nnn
  | seVxKk x kk | sneVxKk x kk => exact h.skipIf (by rw [hread x rfl])
  | seVxVy x y | sneVxVy x y =>
    exact h.skipIf (by rw [hread x (.inl rfl), hread y (.inr rfl)])
  | ldVxKk x kk => exact h.writeResult x rfl
  | addVxKk x kk => exact h.writeResult x (by rw [hread x rfl])
  | ldVxVy x y => exact h.writeResult x (hread y rfl)
  | or x y | and x y | xor x y =>
    exact h.writeResult x (by rw [hread x (.inl rfl), hread y (.inr rfl)])
  | addVxVy x y | sub x y =>
    have hx := hread x (.inl rfl)
    have hy := hread y (.inr rfl)
    exact h.writeResultFlag x (by rw [hx, hy]) (by rw [hx, hy])
  | shr x y | shl x y =>
    have hx := hread x rfl
    exact h.writeResultFlag x (by rw [hx]) (by rw [hx])
  | rnd x kk =>
    obtain ⟨b, rfl⟩ := h
    exact SameButReg.advance (.setReg ⟨b, rfl⟩ x (s.randomByte &&& kk))
  | addIVx x =>
    have hx := hread x rfl
    obtain ⟨b, rfl⟩ := h
    exact ⟨b, by simp only [← hx]; rfl⟩
  | drw x y n =>
    have hx := hread x (.inl rfl)
    have hy := hread y (.inr rfl)
    obtain ⟨b, rfl⟩ := h
    simp only [Machine.exec, execDrw, ← hx, ← hy]
    exact .guardRange (.advance (.setReg ⟨b, rfl⟩ flagReg _)) _ _
  | ldMemVx x =>
    have hblock : s.regBlock x = t.regBlock x := State.regBlock_congr hread
    obtain ⟨b, rfl⟩ := h
    simp only [Machine.exec, execLdMemVx, ← hblock]
    exact .guardRange ⟨b, rfl⟩ _ _
  | ldVxMem x =>
    obtain ⟨b, rfl⟩ := h
    exact .guardRange (.advance (.setRegsTo ⟨b, rfl⟩ x _)) _ _

/-! ## States that differ in stale stack entries (10_state.md R24) -/

/-- CALL overwrites the lowest stale entry, so the entries below the new SP agree. -/
theorem SameButStale.execCall {s t : State} (h : SameButStale s t) (nnn : Address12) :
    OutcomesAgree SameButStale (exec (.call nnn) s) (exec (.call nnn) t) := by
  obtain ⟨stack, rfl, hbelow⟩ := h
  by_cases hs : s.sp.val < 16
  · rw [execCall_ok nnn hs, execCall_ok nnn (s := { s with stack := stack }) hs]
    refine ⟨stack.set s.sp.val (s.pc + 2), rfl, fun k hk => ?_⟩
    simp only [State.setPc_stack, State.setStack_stack, Vector.getElem_set]
    split
    · rfl
    · exact hbelow k (by simp at hk; omega)
  · rw [execCall_full nnn hs, execCall_full nnn (s := { s with stack := stack }) hs]
    rfl

/-- RET reads the entry below SP, which is not stale, and leaves all entries in place. -/
theorem SameButStale.execRet {s t : State} (h : SameButStale s t) :
    OutcomesAgree SameButStale (exec .ret s) (exec .ret t) := by
  obtain ⟨stack, rfl, hbelow⟩ := h
  by_cases hs : s.sp.val = 0
  · rw [execRet_empty hs, execRet_empty (s := { s with stack := stack }) hs]
    rfl
  · rw [execRet_ok hs, execRet_ok (s := { s with stack := stack }) hs]
    have htop := hbelow ⟨s.sp.val - 1, by omega⟩ (by simp; omega)
    refine ⟨stack, ?_, fun k hk => hbelow k (by simp at hk; omega)⟩
    exact congrArg (State.setPc (s.setStack stack ⟨s.sp.val - 1, by omega⟩)) htop

/-- Two runs of one instruction. -/
theorem SameButStale.exec {s t : State} (h : SameButStale s t) (i : Instr) :
    OutcomesAgree SameButStale (exec i s) (exec i t) := by
  cases i with
  | call nnn => exact h.execCall nnn
  | ret => exact h.execRet
  | drw | ldMemVx | ldVxMem =>
    obtain ⟨stack, rfl, hbelow⟩ := h
    exact .guardRange ⟨stack, rfl, hbelow⟩ _ _
  | _ =>
    obtain ⟨stack, rfl, hbelow⟩ := h
    exact ⟨stack, rfl, hbelow⟩

/-- Two steps: neither RUN nor the fetch depends on the stack. -/
theorem SameButStale.step {s t : State} (h : SameButStale s t) :
    OutcomesAgree SameButStale (step s) (step t) := by
  have hrun : t.run = s.run := by obtain ⟨_, rfl, _⟩ := h; rfl
  have hfetch : t.fetchInstr = s.fetchInstr := by obtain ⟨_, rfl, _⟩ := h; rfl
  cases hs : s.run with
  | halted =>
    rw [step_halted s hs, step_halted t (hrun.trans hs)]
    exact h
  | running =>
    rw [step_running s hs, step_running t (hrun.trans hs), hfetch]
    cases s.fetchInstr with
    | error e => rfl
    | ok i => exact h.exec i

end Sys2Proof.Machine
end

section
/-! SETTLED. what an instruction cannot see. -/

namespace Sys2Proof.Proofs

open Sys2Proof Sys2Proof.Machine

/-- Settles O55: a register that is no source differs from every source, so both runs read the same
operands (`SameButReg.exec`). -/
theorem unnamedRegistersDoNotMatter : Obligations.UnnamedRegistersDoNotMatter := by
  intro i k b s hk
  refine SameButReg.exec ⟨b, rfl⟩ i fun j hj => ?_
  have hne : j ≠ k := fun hjk => hk (hjk ▸ hj)
  simp [hne]

/-- Settles O56: only CALL and RET use the stack, and both keep to the entries below SP
(`SameButStale.step`). -/
theorem staleStackEntriesDoNotMatter : Obligations.StaleStackEntriesDoNotMatter :=
  fun _ _ h => h.step

end Sys2Proof.Proofs
end

section
/-! SUPPORT. The canonical form of memory: what it lists is what reads differently from construction
(10_state.md R29, 20_memory.md R41, R49). -/

namespace Sys2Proof.Machine

/-- In a memory sorted by address a read finds every listed cell. -/
theorem Memory.read_of_mem {m : Memory} (hs : m.Pairwise fun c d => c.1 < d.1) {c : Host.Cell}
    (hc : c ∈ m) : m.read c.1 = c.2 := by
  induction m with
  | nil => simp at hc
  | cons d rest ih =>
    obtain ⟨hlt, hrest⟩ := List.pairwise_cons.mp hs
    rcases List.mem_cons.mp hc with rfl | hc
    · simp [Memory.read]
    · have hne : d.1 ≠ c.1 := (hlt c hc).ne
      simp [Memory.read, hne, ih hrest hc]

/-- A byte that is not what construction leaves is listed. -/
theorem Memory.mem_of_read_ne {m : Memory} {a : Nat} (h : m.read a ≠ initialByte a) :
    (a, m.read a) ∈ m := by
  induction m with
  | nil => exact absurd rfl h
  | cons d rest ih =>
    by_cases hd : d.1 = a
    · simp [Memory.read, ← hd]
    · simp only [Memory.read, hd, if_false] at h ⊢
      exact List.mem_cons_of_mem d (ih h)

/-- What a canonical memory lists is what it reads and construction does not leave. -/
theorem Memory.mem_iff_read {m : Memory} (h : m.wf = true) (c : Host.Cell) :
    c ∈ m ↔ m.read c.1 = c.2 ∧ c.2 ≠ initialByte c.1 := by
  obtain ⟨hs, hcells⟩ := (Memory.wf_iff m).mp h
  refine ⟨fun hc => ⟨Memory.read_of_mem hs hc, (hcells c hc).2⟩, fun ⟨hread, hne⟩ => ?_⟩
  have hmem := Memory.mem_of_read_ne (m := m) (a := c.1) (by rwa [hread])
  rwa [hread] at hmem

/-- Memories sorted by address with the same cells are equal. -/
theorem Memory.eq_of_mem_iff {m m' : Memory} (h : m.wf = true) (h' : m'.wf = true)
    (hmem : ∀ c, c ∈ m ↔ c ∈ m') : m = m' := by
  have : Std.Irrefl fun c d : Host.Cell => c.1 < d.1 := ⟨fun c => Nat.lt_irrefl c.1⟩
  have : Std.Antisymm fun c d : Host.Cell => c.1 < d.1 := ⟨fun _ _ h h' => absurd h' h.asymm⟩
  exact ((Memory.wf_iff m).mp h).1.eq_of_mem_iff ((Memory.wf_iff m').mp h').1 hmem

end Sys2Proof.Machine
end

section
/-! SETTLED. the form of memory, and the state after reset. -/

namespace Sys2Proof.Proofs

open Sys2Proof Sys2Proof.Machine

/-- Settles O17: a canonical memory's cells are fixed by its reads (`Memory.mem_iff_read`), and its order
by the addresses. -/
theorem canonicalMemoryIsUnique : Obligations.CanonicalMemoryIsUnique :=
  fun _ _ h h' hread => Memory.eq_of_mem_iff h h' fun c => by
    rw [Memory.mem_iff_read h, Memory.mem_iff_read h', hread]

/-- Settles O18, from the laws of construction. -/
theorem resetHasTheStatedValues : Obligations.ResetHasTheStatedValues :=
  fun font _ => ⟨rfl, rfl, FrameBuffer.pixel_cleared, Memory.read_construct_font font⟩

/-- Settles O19, from the laws of construction. -/
theorem resetHasTheDecidedValues : Obligations.ResetHasTheDecidedValues := by
  refine ⟨fun font seed => ⟨fun x => ?_, rfl, rfl, fun k => ?_, rfl, rfl,
    Memory.read_construct_outside font⟩, State.resetWith_default.symm⟩
  · simp [State.reg, State.reset]
  · simp [State.reset]

end Sys2Proof.Proofs
end

section
/-! SUPPORT. Decoding undoes encoding: the fields of each word form, and the word of each instruction
(30_encoding.md R59 to R62). -/

namespace Sys2Proof

/-! ## Fields of encoded words -/

section
variable {op : Nat} (hop : op < 16)
include hop

@[simp] theorem fieldOp_wordNnn (nnn : Address12) : (fieldOp (wordNnn op nnn)).toNat = op := by
  rw [fieldOp_toNat, wordNnn_toNat _ _ hop]
  omega

@[simp] theorem fieldNnn_wordNnn (nnn : Address12) : fieldNnn (wordNnn op nnn) = nnn := by
  apply BitVec.eq_of_toNat_eq
  rw [fieldNnn_toNat, wordNnn_toNat _ _ hop]
  omega

@[simp] theorem fieldOp_wordXKk (x : Reg) (kk : Byte) :
    (fieldOp (wordXKk op x kk)).toNat = op := by
  rw [fieldOp_toNat, wordXKk_toNat _ _ _ hop]
  omega

@[simp] theorem fieldX_wordXKk (x : Reg) (kk : Byte) : fieldX (wordXKk op x kk) = x := by
  apply Fin.ext
  rw [fieldX_val, wordXKk_toNat _ _ _ hop]
  omega

@[simp] theorem fieldKk_wordXKk (x : Reg) (kk : Byte) : fieldKk (wordXKk op x kk) = kk := by
  apply BitVec.eq_of_toNat_eq
  rw [fieldKk_toNat, wordXKk_toNat _ _ _ hop]
  omega

@[simp] theorem fieldOp_wordXYN (x y : Reg) (n : Nat) :
    (fieldOp (wordXYN op x y n)).toNat = op := by
  rw [fieldOp_toNat, wordXYN_toNat _ _ _ _ hop]
  omega

@[simp] theorem fieldX_wordXYN (x y : Reg) (n : Nat) : fieldX (wordXYN op x y n) = x := by
  apply Fin.ext
  rw [fieldX_val, wordXYN_toNat _ _ _ _ hop]
  omega

@[simp] theorem fieldY_wordXYN (x y : Reg) (n : Nat) : fieldY (wordXYN op x y n) = y := by
  apply Fin.ext
  rw [fieldY_val, wordXYN_toNat _ _ _ _ hop]
  omega

@[simp] theorem fieldN_wordXYN (x y : Reg) (n : Nat) : fieldN (wordXYN op x y n) = n % 16 := by
  rw [fieldN_eq, wordXYN_toNat _ _ _ _ hop]
  omega

end

/-! ## Words -/

/-- The word of a well-formed instruction decodes to it: the op nibble selects the family, n or kk the
instruction in families 0x5, 0x8, 0x9 and 0xF, and the fields give back the operands. -/
theorem decodeWord_encode {i : Instr} (h : i.wf = true) : decodeWord (encode i) = .ok i := by
  cases i with
  | halt | cls | ret => decide
  | jp | call | ldI | seVxKk | sneVxKk | ldVxKk | addVxKk | rnd | seVxVy | sneVxVy =>
    simp [encode, decodeWord]
  | ldVxVy | or | and | xor | addVxVy | sub | shr | shl => simp [encode, decodeWord, decodeAlu]
  | addIVx | ldMemVx | ldVxMem => simp [encode, decodeWord, decodeIndex]
  | drw x y n =>
    have hn : n ≤ 15 := of_decide_eq_true h
    simp [encode, decodeWord, Nat.mod_eq_of_lt (Nat.lt_succ_of_le hn)]

/-! ## Bytes -/

/-- The bytes of a word in front of others decode as the word does, and leave the others. -/
theorem decodeBytes_bytesOfWord (w : Word) (rest : List Byte) :
    decodeBytes (bytesOfWord w ++ rest) = (decodeWord w).map fun i => (i, rest) := by
  simp [bytesOfWord, decodeBytes]

/-- The bytes of a word are its high and then its low byte. -/
theorem bytesOfWord_toNat (w : Word) :
    (bytesOfWord w).map BitVec.toNat = [w.toNat / 256, w.toNat % 256] := by
  have hhi : w.toNat / 256 % 256 = w.toNat / 256 := by omega
  simp [bytesOfWord, Nat.shiftRight_eq_div_pow, hhi]

end Sys2Proof

namespace Sys2Proof.Machine

/-! ## Stored blocks and fetches (20_memory.md R46, R55) -/

/-- After LD [I], Vx the byte at I + k is V[k], up to k = x. -/
theorem execLdMemVx_read {x : Reg} {s t : State} (h : exec (.ldMemVx x) s = .next t) {k : Reg}
    (hk : k ≤ x) : t.mem.read (s.base + k.val) = s.reg k := by
  obtain ⟨-, rfl⟩ := execLdMemVx_next x s t h
  have hlt : k.val < blockLength x := Nat.lt_succ_of_le hk
  simp [Memory.read_writeBlock, hlt, State.getElem_regBlock]

/-- A fetch below 0xFFF reads the byte at its address as the high one and the next as the low one. -/
theorem fetchWordAt_ok (m : Memory) {a : Nat} (h : a + 1 < 4096) :
    fetchWordAt m a = .ok (wordOfBytes (m.read a) (m.read (a + 1))) :=
  if_pos h

end Sys2Proof.Machine
end

section
/-! SETTLED. byte order: the bytes of an instruction, and the word of stored bytes. -/

namespace Sys2Proof.Proofs

open Sys2Proof Sys2Proof.Machine

/-- Settles O6: the bytes of a word decode as the word (`decodeBytes_bytesOfWord`), and decoding undoes
encoding (`decodeWord_encode`). -/
theorem instructionIsTwoBytesBigEndian : Obligations.InstructionIsTwoBytesBigEndian := by
  intro i rest h
  refine ⟨?_, bytesOfWord_toNat (encode i)⟩
  rw [encodeBytes, decodeBytes_bytesOfWord, decodeWord_encode h]
  rfl

/-- Settles O47: both bytes are in the stored block (`execLdMemVx_read`), whose addresses all exist. -/
theorem storedBytesAreFetched : Obligations.StoredBytesAreFetched := by
  intro x s t h k k' hk hx
  obtain ⟨hbound, -⟩ := execLdMemVx_next x s t h
  have hlt : k'.val < blockLength x := Nat.lt_succ_of_le hx
  have hkx : k ≤ x := (Fin.le_def.mpr (by omega) : k ≤ k').trans hx
  rw [fetchWordAt_ok _ (by omega), execLdMemVx_read h hkx, Nat.add_assoc, ← hk,
    execLdMemVx_read h hx]

end Sys2Proof.Proofs
end

section
/-! SUPPORT. Encoding undoes decoding, the words that decode to nothing, and the row that covers a word
(30_encoding.md R62 to R72, R79). -/

namespace Sys2Proof

/-! ## A word is put together from its fields -/

section
variable {w : Word} {op : Nat} (hop : (fieldOp w).toNat = op)
include hop

theorem wordNnn_fields : wordNnn op (fieldNnn w) = w := by
  have hlt : op < 16 := hop ▸ (fieldOp w).isLt
  rw [fieldOp_toNat] at hop
  apply BitVec.eq_of_toNat_eq
  rw [wordNnn_toNat _ _ hlt, fieldNnn_toNat]
  omega

theorem wordXKk_fields {kk : Byte} (hkk : (fieldKk w).toNat = kk.toNat) :
    wordXKk op (fieldX w) kk = w := by
  have hlt : op < 16 := hop ▸ (fieldOp w).isLt
  rw [fieldOp_toNat] at hop
  rw [fieldKk_toNat] at hkk
  apply BitVec.eq_of_toNat_eq
  rw [wordXKk_toNat _ _ _ hlt, fieldX_val]
  omega

theorem wordXYN_fields {n : Nat} (hn : fieldN w = n) : wordXYN op (fieldX w) (fieldY w) n = w := by
  have hlt : op < 16 := hop ▸ (fieldOp w).isLt
  rw [fieldOp_toNat] at hop
  rw [fieldN_eq] at hn
  apply BitVec.eq_of_toNat_eq
  rw [wordXYN_toNat _ _ _ _ hlt, fieldX_val, fieldY_val]
  omega

end

/-! ## Encoding undoes decoding, family by family -/

theorem encode_of_decodeSystem {w : Word} {i : Instr} (h : decodeSystem w = .ok i) :
    encode i = w ∧ i.wf = true := by
  unfold decodeSystem at h
  split_ifs at h with h0 h1 h2 <;> cases h
  · exact ⟨h0.symm, rfl⟩
  · exact ⟨h1.symm, rfl⟩
  · exact ⟨h2.symm, rfl⟩

theorem encode_of_decodeAlu {w : Word} {i : Instr} (hop : (fieldOp w).toNat = 0x8)
    (h : decodeAlu w = .ok i) : encode i = w ∧ i.wf = true := by
  unfold decodeAlu at h
  split at h
  case h_9 => cases h
  all_goals
    cases h
    exact ⟨wordXYN_fields hop ‹_›, rfl⟩

theorem encode_of_decodeIndex {w : Word} {i : Instr} (hop : (fieldOp w).toNat = 0xF)
    (h : decodeIndex w = .ok i) : encode i = w ∧ i.wf = true := by
  unfold decodeIndex at h
  split at h
  case h_4 => cases h
  all_goals
    cases h
    exact ⟨wordXKk_fields hop ‹_›, rfl⟩

/-- What a word decodes to is well formed and has that word as its encoding: the op nibble and the
selector that chose the instruction are the ones its encoding writes. -/
theorem encode_of_decodeWord {w : Word} {i : Instr} (h : decodeWord w = .ok i) :
    encode i = w ∧ i.wf = true := by
  unfold decodeWord at h
  split at h
  case h_1 => exact encode_of_decodeSystem h
  case h_9 hop => exact encode_of_decodeAlu hop h
  case h_14 hop => exact encode_of_decodeIndex hop h
  case h_15 => cases h
  case h_6 hop | h_10 hop =>
    split at h <;> cases h
    exact ⟨wordXYN_fields hop ‹_›, rfl⟩
  case h_2 hop | h_3 hop | h_11 hop =>
    cases h
    exact ⟨wordNnn_fields hop, rfl⟩
  case h_4 hop | h_5 hop | h_7 hop | h_8 hop | h_12 hop =>
    cases h
    exact ⟨wordXKk_fields hop rfl, rfl⟩
  case h_13 hop =>
    cases h
    exact ⟨wordXYN_fields hop rfl, decide_eq_true (fieldN_le w)⟩

/-! ## The words that decode to nothing, family by family -/

/-- The words of each family that the opcode map does not list (R63 to R69). -/
def UnlistedWord (w : Word) : Prop :=
  (w.toNat / 4096 = 0x0 ∧ w ≠ 0x0000 ∧ w ≠ 0x00E0 ∧ w ≠ 0x00EE) ∨
  (w.toNat / 4096 = 0x5 ∧ w.toNat % 16 ≠ 0) ∨
  (w.toNat / 4096 = 0x8 ∧ w.toNat % 16 ∉ [0x0, 0x1, 0x2, 0x3, 0x4, 0x5, 0x6, 0xE]) ∨
  (w.toNat / 4096 = 0x9 ∧ w.toNat % 16 ≠ 0) ∨
  w.toNat / 4096 = 0xB ∨
  w.toNat / 4096 = 0xE ∨
  (w.toNat / 4096 = 0xF ∧ w.toNat % 256 ∉ [0x1E, 0x55, 0x65])

theorem decodeSystem_error_iff (w : Word) (e : DecodeError) : decodeSystem w = .error e ↔
    (w ≠ 0x0000 ∧ w ≠ 0x00E0 ∧ w ≠ 0x00EE) ∧ .unknownOpcode w = e := by
  unfold decodeSystem
  split_ifs with h0 h1 h2
  · simp [h0]
  · simp [h1]
  · simp [h2]
  · simpa using fun _ => ⟨h0, h1, h2⟩

theorem decodeAlu_error_iff (w : Word) (e : DecodeError) : decodeAlu w = .error e ↔
    w.toNat % 16 ∉ [0x0, 0x1, 0x2, 0x3, 0x4, 0x5, 0x6, 0xE] ∧ .unknownOpcode w = e := by
  rw [← fieldN_eq]
  unfold decodeAlu
  split
  case h_9 => simp_all
  all_goals simp [*]

theorem decodeIndex_error_iff (w : Word) (e : DecodeError) : decodeIndex w = .error e ↔
    w.toNat % 256 ∉ [0x1E, 0x55, 0x65] ∧ .unknownOpcode w = e := by
  rw [← fieldKk_toNat]
  unfold decodeIndex
  split
  case h_4 => simp_all
  all_goals simp [*]

/-- A word fails to decode exactly where its family does not list it, and the error names the word. -/
theorem decodeWord_error_iff (w : Word) (e : DecodeError) :
    decodeWord w = .error e ↔ UnlistedWord w ∧ .unknownOpcode w = e := by
  have hlt := w.isLt
  unfold decodeWord
  rw [fieldOp_toNat]
  split
  case h_1 hop => simp [UnlistedWord, hop, decodeSystem_error_iff]
  case h_6 hop | h_10 hop => split_ifs <;> simp [UnlistedWord, ← fieldN_eq, *]
  case h_9 hop => simp [UnlistedWord, hop, decodeAlu_error_iff]
  case h_14 hop => simp [UnlistedWord, hop, decodeIndex_error_iff]
  case h_15 =>
    have hop : w.toNat / 4096 = 0xB ∨ w.toNat / 4096 = 0xE := by grind
    rcases hop with hop | hop <;> simp [UnlistedWord, hop]
  all_goals simp [UnlistedWord, *]

/-! ## The rows of the opcode table -/

/-- The rows of R62 by what selects them (R63): the whole word, the op nibble, it and n, or it and
kk. -/
theorem opcodeTable_selectors : ∀ r ∈ opcodeTable,
    (r.mask = 0xFFFF ∧ r.pattern ∈ [0x0000, 0x00E0, 0x00EE]) ∨
    (r.mask = 0xF000 ∧ r.pattern.toNat / 4096 ∈ [0x1, 0x2, 0x3, 0x4, 0x6, 0x7, 0xA, 0xC, 0xD]) ∨
    (r.mask = 0xF00F ∧ (r.pattern.toNat ∈ [0x5000, 0x9000] ∨ r.pattern.toNat / 4096 = 0x8 ∧
      r.pattern.toNat % 4096 ∈ [0x0, 0x1, 0x2, 0x3, 0x4, 0x5, 0x6, 0xE])) ∨
    (r.mask = 0xF0FF ∧ r.pattern.toNat ∈ [0xF01E, 0xF055, 0xF065]) := by
  decide

/-- A word that a row of the table covers is a listed word of its family. -/
theorem OpcodeRow.not_unlisted_of_covers {r : OpcodeRow} (hr : r ∈ opcodeTable) {w : Word}
    (hrw : r.covers w = true) : ¬ UnlistedWord w := by
  rw [OpcodeRow.covers_iff] at hrw
  have hsel := opcodeTable_selectors r hr
  simp only [List.mem_cons, List.not_mem_nil, or_false] at hsel
  simp only [UnlistedWord, List.mem_cons, List.not_mem_nil, or_false]
  obtain ⟨hm, hp⟩ | ⟨hm, hp⟩ | ⟨hm, hp⟩ | ⟨hm, hp⟩ := hsel <;> rw [hm] at hrw
  · rw [and_0xFFFF, BitVec.toNat_inj] at hrw
    rcases hp with hp | hp | hp <;> simp [hrw, hp]
  · rw [and_0xF000_toNat] at hrw
    omega
  · rw [and_0xF00F_toNat] at hrw
    omega
  · rw [and_0xF0FF_toNat] at hrw
    omega

/-- No two rows of the table agree on the bits both select by. -/
theorem opcodeTable_disjoint : ∀ r ∈ opcodeTable, ∀ q ∈ opcodeTable,
    r.pattern &&& q.mask = q.pattern &&& r.mask → q = r := by
  decide

/-- Two rows of the table that cover the same word are one row. -/
theorem OpcodeRow.eq_of_covers {r q : OpcodeRow} (hr : r ∈ opcodeTable) (hq : q ∈ opcodeTable)
    {w : Word} (hrw : r.covers w = true) (hqw : q.covers w = true) : q = r := by
  rw [OpcodeRow.covers, beq_iff_eq] at hrw hqw
  refine opcodeTable_disjoint r hr q hq ?_
  rw [← hrw, ← hqw, BitVec.and_assoc, BitVec.and_assoc, BitVec.and_comm r.mask]

theorem opcodeTable_nodup : opcodeTable.Nodup := by decide

/-- The row that covers a word is all there is of the rows that cover it. -/
theorem opcodeTable_filter_covers {r : OpcodeRow} (hr : r ∈ opcodeTable) {w : Word}
    (hrw : r.covers w = true) : (opcodeTable.filter fun q => q.covers w) = [r] := by
  have hcongr : ∀ q ∈ opcodeTable, q.covers w = decide (q = r) := fun q hq => by
    rw [Bool.eq_iff_iff, decide_eq_true_iff]
    exact ⟨OpcodeRow.eq_of_covers hr hq hrw, fun h => h ▸ hrw⟩
  rw [List.filter_congr hcongr, List.filter_eq, List.count_eq_one_of_mem opcodeTable_nodup hr]
  rfl

/-- Every instruction's word is covered by the row of R62 that has the instruction's number. -/
theorem encodesRow (i : Instr) : Laws.EncodesRow.Statement i :=
  match i with
  | .halt => Laws.EncodesRow.halt
  | .cls => Laws.EncodesRow.cls
  | .ret => Laws.EncodesRow.ret
  | .jp nnn => Laws.EncodesRow.jp nnn
  | .call nnn => Laws.EncodesRow.call nnn
  | .seVxKk x kk => Laws.EncodesRow.seVxKk x kk
  | .sneVxKk x kk => Laws.EncodesRow.sneVxKk x kk
  | .seVxVy x y => Laws.EncodesRow.seVxVy x y
  | .ldVxKk x kk => Laws.EncodesRow.ldVxKk x kk
  | .addVxKk x kk => Laws.EncodesRow.addVxKk x kk
  | .ldVxVy x y => Laws.EncodesRow.ldVxVy x y
  | .or x y => Laws.EncodesRow.or x y
  | .and x y => Laws.EncodesRow.and x y
  | .xor x y => Laws.EncodesRow.xor x y
  | .addVxVy x y => Laws.EncodesRow.addVxVy x y
  | .sub x y => Laws.EncodesRow.sub x y
  | .shr x y => Laws.EncodesRow.shr x y
  | .shl x y => Laws.EncodesRow.shl x y
  | .sneVxVy x y => Laws.EncodesRow.sneVxVy x y
  | .ldI nnn => Laws.EncodesRow.ldI nnn
  | .rnd x kk => Laws.EncodesRow.rnd x kk
  | .drw x y n => Laws.EncodesRow.drw x y n
  | .addIVx x => Laws.EncodesRow.addIVx x
  | .ldMemVx x => Laws.EncodesRow.ldMemVx x
  | .ldVxMem x => Laws.EncodesRow.ldVxMem x

end Sys2Proof

namespace Sys2Proof.Machine

/-- A running core that fetches a word that decodes to nothing fails with the word's error (R79). -/
theorem step_of_decodeWord_error {s : State} {w : Word} {e : DecodeError} (hrun : s.run = .running)
    (hf : s.fetch = .ok w) (hd : decodeWord w = .error e) : step s = .fault (decodeFault w e) := by
  rw [step_running s hrun, State.fetchInstr, hf]
  simp only [hd]

end Sys2Proof.Machine
end

section
/-! SETTLED. encoding and decoding. -/

namespace Sys2Proof.Proofs

open Sys2Proof Sys2Proof.Machine

/-- Settles O1, by the case split along the instructions of `decodeWord_encode`. -/
theorem decodeInvertsEncode : Obligations.DecodeInvertsEncode :=
  fun _ h => decodeWord_encode h

/-- Settles O2, by the case split along the families of `encode_of_decodeWord`. -/
theorem encodeInvertsDecode : Obligations.EncodeInvertsDecode :=
  fun _ _ h => encode_of_decodeWord h

/-- Settles O3: a decoded word is the encoding of its instruction, whose row covers it, and no two rows
do; a word that does not decode is unlisted, and no row covers such a word. -/
theorem eachWordHasOneOutcome : Obligations.EachWordHasOneOutcome := by
  intro w
  cases hd : decodeWord w with
  | ok i =>
    obtain ⟨r, hr, hnum, hcov⟩ := encodesRow i
    rw [(encode_of_decodeWord hd).1] at hcov
    exact .inl ⟨i, r, rfl, hnum, opcodeTable_filter_covers hr hcov⟩
  | error e =>
    obtain ⟨hun, rfl⟩ := (decodeWord_error_iff w e).mp hd
    refine .inr ⟨rfl, fun r hr => ?_, fun s hrun hf => step_of_decodeWord_error hrun hf hd⟩
    exact Bool.eq_false_iff.mpr fun hcov => OpcodeRow.not_unlisted_of_covers hr hcov hun

/-- Settles O4, by the case split along the families of `decodeWord_error_iff`. -/
theorem unlistedWordsAreUnknown : Obligations.UnlistedWordsAreUnknown :=
  fun w => (decodeWord_error_iff w _).trans (and_iff_left rfl)

/-- Settles O5: each word is decoded. -/
theorem sampleWordsDecode : Obligations.SampleWordsDecode := by
  unfold Obligations.SampleWordsDecode
  decide

end Sys2Proof.Proofs
end

section
/-! SUPPORT. One step by what it fetches (40_execution_cycle.md R77 to R82), and the one instruction that
draws from the random port (60_exceptions.md R128). -/

namespace Sys2Proof.Machine

/-! ## Fetch and decode, then execute (R80) -/

/-- The instruction at PC is what the fetched word decodes to. -/
theorem State.fetchInstr_of_decodeWord {s : State} {w : Word} {i : Instr} (hf : s.fetch = .ok w)
    (hd : decodeWord w = .ok i) : s.fetchInstr = .ok i := by
  simp only [State.fetchInstr, hf, hd]

/-- A running core executes the instruction at PC. -/
theorem step_of_fetchInstr {s : State} {i : Instr} (hrun : s.run = .running)
    (hi : s.fetchInstr = .ok i) : step s = exec i s := by
  rw [step_running s hrun, hi]

/-- A running core executes what the fetched word decodes to. -/
theorem step_of_decodeWord {s : State} {w : Word} {i : Instr} (hrun : s.run = .running)
    (hf : s.fetch = .ok w) (hd : decodeWord w = .ok i) : step s = exec i s :=
  step_of_fetchInstr hrun (State.fetchInstr_of_decodeWord hf hd)

/-- A running core whose fetch fails answers the error of the fetch (R77). -/
theorem step_of_fetch_error {s : State} {e : Fault} (hrun : s.run = .running)
    (hf : s.fetch = .error e) : step s = .fault e := by
  rw [step_running s hrun, State.fetchInstr, hf]

/-- A running core that fetches 0x0000 halts (R78). -/
theorem step_of_fetch_zero {s : State} (hrun : s.run = .running) (hf : s.fetch = .ok 0x0000) :
    step s = .next s.halt :=
  step_of_decodeWord hrun hf (i := .halt) (by decide)

/-- A jump to its own address changes nothing. -/
theorem execJp_self {nnn : Address12} {s : State} (h : nnn.toNat = s.pc.toNat) :
    exec (.jp nnn) s = .next s := by
  have hpc : zextAddress nnn = s.pc := BitVec.eq_of_toNat_eq (by rw [zextAddress_toNat, h])
  exact congrArg (fun w => Host.Outcome.next (s.setPc w)) hpc

/-! ## The next PC (R81, R82) -/

/-- A skip lands 4 bytes on where its condition holds, else 2. -/
theorem State.skipIf_pc_of_iff (s : State) {c : Bool} {p : Prop} [Decidable p] (h : c = true ↔ p) :
    (s.skipIf c).pc = if p then s.pc + 4 else s.pc + 2 := by
  by_cases hp : p <;> simp [h, hp]

/-! ## The random port -/

theorem random_mem_partsWritten (i : Instr) :
    .random ∈ partsWritten i ↔ ∃ x kk, i = .rnd x kk := by
  cases i <;> simp [partsWritten]

end Sys2Proof.Machine
end

section
/-! SETTLED. the execution cycle. -/

namespace Sys2Proof.Proofs

open Sys2Proof Sys2Proof.Machine

/-- Settles O8: only HALT writes RUN, and it is fetched only as the word 0x0000. -/
theorem onlyTheZeroWordHalts : Obligations.OnlyTheZeroWordHalts := by
  refine fun s hrun => ⟨step_of_fetch_zero hrun, fun t hstep hhalted => ?_, fun nnn hi hself => ?_⟩
  · obtain ⟨hs, -⟩ | ⟨-, -, i, hi, hexec⟩ := step_cases s t hstep
    · simp [hrun] at hs
    · have hne : ¬ SamePart s t .run := by simp [SamePart, hrun, hhalted]
      obtain rfl := (run_mem_partsWritten i).mp (exec_changed hexec hne)
      exact State.fetch_of_fetchInstr_halt hi
  · rw [step_of_fetchInstr hrun hi, execJp_self hself]

/-- Settles O11: the step port keeps the core on an error (`Session.takeStep_error`), RND has no check,
and only RND writes the random source's part of the state. -/
theorem errorLeavesStateUnchanged : Obligations.ErrorLeavesStateUnchanged := by
  refine ⟨fun h e he => ?_, fun x kk s => ⟨_, rfl⟩, fun i s t hexec hne => ?_⟩
  · obtain ⟨hstep, hkept⟩ := h.takeStep_error e he
    have hcore : h.takeStep.1.core = h.core := by rw [hkept]
    exact ⟨hcore, hstep⟩
  · exact (random_mem_partsWritten i).mp (exec_changed hexec fun ⟨_, hpos⟩ => hne hpos)

/-- Settles O13, instruction by instruction: a jump, a return and a skip compute their PC, HALT keeps it,
and every other instruction ends by advancing. -/
theorem nextPcOfEveryInstruction : Obligations.NextPcOfEveryInstruction := by
  intro i s t h
  cases i with
  | halt => cases h; rfl
  | jp nnn => cases h; exact zextAddress_toNat nnn
  | call nnn => obtain ⟨-, rfl⟩ := execCall_next nnn s t h; exact zextAddress_toNat nnn
  | ret =>
    obtain ⟨hs, rfl⟩ := execRet_next s t h
    exact ⟨⟨s.sp.val - 1, by omega⟩, (Nat.sub_one_add_one hs).symm, rfl⟩
  | seVxKk | seVxVy => cases h; exact s.skipIf_pc_of_iff beq_iff_eq
  | sneVxKk | sneVxVy => cases h; exact s.skipIf_pc_of_iff bne_iff_ne
  | drw x y n => obtain ⟨-, rfl⟩ := execDrw_next x y n s t h; exact State.advance_pc _
  | ldMemVx x => obtain ⟨-, rfl⟩ := execLdMemVx_next x s t h; exact State.advance_pc _
  | ldVxMem x => obtain ⟨-, rfl⟩ := execLdVxMem_next x s t h; exact State.advance_pc _
  | _ => cases h; exact State.advance_pc _

/-- Settles O7, in the order of R80: the run state, the fetch, the decoded word. -/
theorem stepRunsTheDecodedInstruction : Obligations.StepRunsTheDecodedInstruction := by
  refine fun s => ⟨step_halted s, fun hrun hpc => ?_, fun hrun hpc w hw => ?_⟩
  · exact step_of_fetch_error hrun (s.fetch_fault (by omega))
  · have hf : s.fetch = .ok w := hw ▸ s.fetch_ok hpc
    refine ⟨fun hzero => step_of_fetch_zero hrun (hzero ▸ hf), fun i hd => ?_,
      step_of_decodeWord_error hrun hf⟩
    exact ⟨(encode_of_decodeWord hd).2, step_of_decodeWord hrun hf hd⟩

/-- Settles O24, with the frame of HALT (`exec_frame`). -/
theorem haltCompletes : Obligations.HaltCompletes :=
  fun s => ⟨s.halt, rfl, rfl, exec_frame (i := .halt) rfl⟩

end Sys2Proof.Proofs
end

section
/-! SUPPORT. RET by the top entry of the stack, and the four skips by their condition (41_control.md R88,
R91 to R94). -/

namespace Sys2Proof.Machine

/-- RET on a stack whose top entry is number `top` (R88). -/
theorem execRet_top {s : State} {top : Fin 16} (h : s.sp.val = top.val + 1) :
    exec .ret s = .next ((s.setStack s.stack top.castSucc).setPc s.stack[top.val]) := by
  have htop : s.sp.val - 1 = top.val := by omega
  rw [execRet_ok (by omega)]
  simp only [htop]
  rfl

/-- What an instruction does that skips where `p` holds, whatever its operands (R82). -/
theorem exec_skip {i : Instr} {s : State} {c : Bool} {p : Prop} [Decidable p]
    (hp : partsWritten i = [.pc]) (hexec : exec i s = .next (s.skipIf c)) (hc : c = true ↔ p) :
    ∃ t, exec i s = .next t ∧ t.pc = (if p then s.pc + 4 else s.pc + 2) ∧ SameExcept [.pc] s t :=
  ⟨_, hexec, s.skipIf_pc_of_iff hc, hp ▸ exec_frame hexec⟩

/-- The same of an instruction that skips where `p` does not hold. -/
theorem exec_skip_not {i : Instr} {s : State} {c : Bool} {p : Prop} [Decidable p]
    (hp : partsWritten i = [.pc]) (hexec : exec i s = .next (s.skipIf c)) (hc : c = true ↔ ¬ p) :
    ∃ t, exec i s = .next t ∧ t.pc = (if p then s.pc + 2 else s.pc + 4) ∧ SameExcept [.pc] s t := by
  simpa only [ite_not] using exec_skip hp hexec hc

end Sys2Proof.Machine
end

section
/-! SETTLED. control flow: CLS, JP, the skips, CALL and RET. -/

namespace Sys2Proof.Proofs

open Sys2Proof Sys2Proof.Machine

/-- Settles O28: where the stack has room CALL writes its entry number SP and no other. -/
theorem callPushesAndJumps : Obligations.CallPushesAndJumps := by
  intro nnn s hroom
  have hcall := execCall_ok nnn hroom
  refine ⟨_, hcall, rfl, zextAddress_toNat nnn, fun k => ?_, exec_frame hcall⟩
  simp only [State.setPc_stack, State.setStack_stack, Vector.getElem_set, eq_comm]

/-- Settles O32: the top of the stack a CALL leaves is the entry it wrote, at the SP it started from. -/
theorem retReturnsAfterTheCall : Obligations.RetReturnsAfterTheCall := by
  intro nnn s t u hcall hsp hstack
  obtain ⟨hroom, rfl⟩ := execCall_next nnn s t hcall
  have htop : u.sp.val = (⟨s.sp.val, hroom⟩ : Fin 16).val + 1 := congrArg Fin.val hsp
  refine ⟨_, execRet_top htop, ?_, rfl⟩
  simp [hstack]

/-- Settles O25, with the frame of CLS (`exec_frame`). -/
theorem clsClearsTheDisplay : Obligations.ClsClearsTheDisplay :=
  fun _ => ⟨_, rfl, FrameBuffer.pixel_cleared, rfl, exec_frame (i := .cls) rfl⟩

/-- Settles O26, with the frame of JP; zero extension keeps the value of nnn. -/
theorem jpJumps : Obligations.JpJumps :=
  fun nnn _ => ⟨_, rfl, zextAddress_toNat nnn, exec_frame (i := .jp nnn) rfl⟩

/-- Settles O27: SE skips where its operands are equal, SNE where they are not. -/
theorem skipsAdvanceByFourOrTwo : Obligations.SkipsAdvanceByFourOrTwo :=
  fun _ _ _ _ => ⟨exec_skip rfl rfl beq_iff_eq, exec_skip_not rfl rfl bne_iff_ne,
    exec_skip rfl rfl beq_iff_eq, exec_skip_not rfl rfl bne_iff_ne⟩

/-- Settles O29: RET takes the top entry to PC and writes SP, and no stack entry. -/
theorem retPopsPc : Obligations.RetPopsPc := by
  intro s top hsp
  have hret := execRet_top hsp
  exact ⟨_, hret, rfl, rfl, rfl, exec_frame hret⟩

end Sys2Proof.Proofs
end

section
/-! SUPPORT. What the instructions of 42_alu.md do, said once for those that write a result and once for
those that write a result and VF (R96); the values of the two shift flags (R105, R106). -/

namespace Sys2Proof.Machine

/-! ## Results and flags in the registers -/

/-- What an instruction does that ends by `writeResult`, whatever its operands. -/
theorem exec_result {i : Instr} {s : State} {x : Reg} {r : Byte} (hp : partsWritten i = [.v, .pc])
    (hexec : exec i s = writeResult s x r) :
    ∃ t, exec i s = .next t ∧ t.reg x = r ∧ t.pc = s.pc + 2 ∧ SameRegsExcept [x] s t ∧
      SameExcept [.v, .pc] s t := by
  refine ⟨_, hexec, by simp, rfl, fun k hk => ?_, hp ▸ exec_frame hexec⟩
  have hkx : k ≠ x := List.ne_of_not_mem_cons hk
  simp [hkx]

/-- What an instruction does that ends by `writeResultFlag`: the flag is written last, so the result is
in V[x] only where x is not 15 (R96). -/
theorem exec_resultFlag {i : Instr} {s : State} {x : Reg} {r f : Byte}
    (hp : partsWritten i = [.v, .pc]) (hexec : exec i s = writeResultFlag s x r f) :
    ∃ t, exec i s = .next t ∧ (x ≠ 15 → t.reg x = r) ∧ t.reg 15 = f ∧ t.pc = s.pc + 2 ∧
      SameRegsExcept [x, 15] s t ∧ SameExcept [.v, .pc] s t := by
  refine ⟨_, hexec, fun hx => by simp [hx], writeResultFlag_vf rfl, rfl, fun k hk => ?_,
    hp ▸ exec_frame hexec⟩
  obtain ⟨hkx, hkf⟩ : k ≠ x ∧ k ≠ 15 := by simpa using hk
  simp [hkx, hkf]

/-! ## The bit a shift moves out -/

/-- The flag of a bit is that binary digit of the byte. -/
theorem flagOf_getLsbD_toNat (a : Byte) (k : Nat) :
    (flagOf (a.getLsbD k)).toNat = a.toNat / 2 ^ k % 2 := by
  rw [← Nat.toNat_testBit, BitVec.testBit_toNat]
  cases a.getLsbD k <;> rfl

theorem shiftRightFlag_toNat (a : Byte) : (shiftRightFlag a).toNat = a.toNat % 2 := by
  rw [shiftRightFlag, flagOf_getLsbD_toNat, pow_zero, Nat.div_one]

theorem shiftLeftFlag_toNat (a : Byte) : (shiftLeftFlag a).toNat = a.toNat / 128 := by
  have hbit : (shiftLeftFlag a).toNat = a.toNat / 128 % 2 := flagOf_getLsbD_toNat a 7
  omega

end Sys2Proof.Machine
end

section
/-! SETTLED. register loads, arithmetic, logic and shifts. -/

namespace Sys2Proof.Proofs

open Sys2Proof Sys2Proof.Machine

/-- Settles O36: the word sum is the sum mod 256, and the carry flag compares the true sum with 255. -/
theorem addVxVyWritesSumAndCarry : Obligations.AddVxVyWritesSumAndCarry := by
  intro x y s
  obtain ⟨t, hexec, hx, hvf, hframe⟩ := exec_resultFlag (i := .addVxVy x y) (s := s) rfl rfl
  refine ⟨t, hexec, fun hne => ?_, hvf.trans (flagOf_decide _), hframe⟩
  rw [hx hne, BitVec.toNat_add]

/-- Settles O37: the word difference is the difference mod 256, and the flag is 1 where it does not
wrap. -/
theorem subWritesDifferenceAndNotBorrow : Obligations.SubWritesDifferenceAndNotBorrow := by
  intro x y s
  obtain ⟨t, hexec, hx, hvf, hframe⟩ := exec_resultFlag (i := .sub x y) (s := s) rfl rfl
  refine ⟨t, hexec, fun hne => ?_, hvf.trans (flagOf_decide _), hframe⟩
  rw [hx hne]
  bv_omega

/-- Settles O38: a shift halves or doubles the byte, its flag is the digit moved out, and neither meaning
mentions y. -/
theorem shiftsMoveOneBitIntoVf : Obligations.ShiftsMoveOneBitIntoVf := by
  refine fun x y s => ⟨?_, ?_, fun _ => ⟨rfl, rfl⟩⟩
  · obtain ⟨t, hexec, hx, hvf, hframe⟩ := exec_resultFlag (i := .shr x y) (s := s) rfl rfl
    refine ⟨t, hexec, fun hne => ?_, hvf ▸ shiftRightFlag_toNat _, hframe⟩
    rw [hx hne, BitVec.toNat_ushiftRight, Nat.shiftRight_one]
  · obtain ⟨t, hexec, hx, hvf, hframe⟩ := exec_resultFlag (i := .shl x y) (s := s) rfl rfl
    refine ⟨t, hexec, fun hne => ?_, hvf ▸ shiftLeftFlag_toNat _, hframe⟩
    rw [hx hne, BitVec.toNat_shiftLeft, Nat.shiftLeft_eq, pow_one, Nat.mul_comm]

/-- Settles O33: a word of that value is the encoding of LD Vx, kk, which decodes back. -/
theorem ldVxKkLoadsTheImmediate : Obligations.LdVxKkLoadsTheImmediate := by
  refine fun x kk s => ⟨fun w hw => ?_, exec_result rfl rfl⟩
  have henc : w = encode (.ldVxKk x kk) :=
    BitVec.eq_of_toNat_eq (hw.trans (wordXKk_toNat 0x6 x kk (by decide)).symm)
  exact henc ▸ decodeWord_encode rfl

/-- Settles O34: the word sum is the sum mod 256. -/
theorem addVxKkWrapsWithoutFlag : Obligations.AddVxKkWrapsWithoutFlag := by
  intro x kk s
  obtain ⟨t, hexec, hx, hframe⟩ := exec_result (i := .addVxKk x kk) (s := s) rfl rfl
  exact ⟨t, hexec, hx ▸ BitVec.toNat_add _ _, hframe⟩

/-- Settles O35: all four end by `writeResult`, and the three logic operations act bit by bit. -/
theorem copyAndLogicWriteVxAlone : Obligations.CopyAndLogicWriteVxAlone := by
  refine fun x y s => ⟨exec_result rfl rfl, ?_, ?_, ?_⟩
  · obtain ⟨t, hexec, hx, hframe⟩ := exec_result (i := .or x y) (s := s) rfl rfl
    exact ⟨t, hexec, fun _ => hx ▸ BitVec.getLsbD_or, hframe⟩
  · obtain ⟨t, hexec, hx, hframe⟩ := exec_result (i := .and x y) (s := s) rfl rfl
    exact ⟨t, hexec, fun _ => hx ▸ BitVec.getLsbD_and, hframe⟩
  · obtain ⟨t, hexec, hx, hframe⟩ := exec_result (i := .xor x y) (s := s) rfl rfl
    exact ⟨t, hexec, fun _ => hx ▸ BitVec.getLsbD_xor, hframe⟩

end Sys2Proof.Proofs
end

section
/-! SUPPORT. Sprites (43_index_random_draw.md R109 to R111): the cells of a sprite are distinct pixels, so
the blit's loop is one XOR of the sprite's bits into the pixels before the draw. And which registers an
instruction keeps. -/

namespace Sys2Proof.Machine

/-! ## One cell -/

/-- The pixel a cell touches. -/
def SpriteCell.pos (k : SpriteCell) : Fin 64 × Fin 32 := (k.c, k.r)

theorem SpriteCell.pos_eq_iff (k : SpriteCell) (c : Fin 64) (r : Fin 32) :
    k.pos = (c, r) ↔ k.c = c ∧ k.r = r := Prod.mk_inj

/-- The column of the sprite, counted from its left edge and wrapped mod 64, that covers the column `c`. -/
def columnOffset (x : Byte) (c : Fin 64) : Nat := (c.val + 256 - x.toNat) % 64

/-- The row of the sprite, counted from its top edge and wrapped mod 32, that covers the row `r`. -/
def rowOffset (y : Byte) (r : Fin 32) : Nat := (r.val + 256 - y.toNat) % 32

theorem spriteBit_eq (x y : Byte) (rows : List Byte) (c : Fin 64) (r : Fin 32) :
    spriteBit x y rows c r = (decide (columnOffset x c < 8) &&
      (rows.getD (rowOffset y r) 0).getLsbD (7 - columnOffset x c)) := rfl

/-- Wrapping a coordinate loses nothing where the sprite is no larger than the screen: the pixel a cell
touches tells the cell's row and column in the sprite. -/
theorem spriteCell_pos_eq_iff {x y row : Byte} {i j : Nat} (hi : i < 32) (hj : j < 64) {c : Fin 64}
    {r : Fin 32} : (spriteCell x y row i j).pos = (c, r) ↔ rowOffset y r = i ∧ columnOffset x c = j := by
  have hx := x.isLt
  have hy := y.isLt
  simp only [SpriteCell.pos_eq_iff, spriteCell, rowOffset, columnOffset, Fin.ext_iff, Fin.val_ofNat]
  omega

/-- Cells that touch the same pixel are in the same row and column of the sprite. -/
theorem spriteCell_pos_inj {x y row row' : Byte} {i i' j j' : Nat} (hi : i < 32) (hi' : i' < 32)
    (hj : j < 64) (hj' : j' < 64)
    (h : (spriteCell x y row i j).pos = (spriteCell x y row' i' j').pos) : i = i' ∧ j = j' := by
  obtain ⟨hrow, hcol⟩ := (spriteCell_pos_eq_iff hi hj).mp h
  obtain ⟨hrow', hcol'⟩ := (spriteCell_pos_eq_iff (row := row') hi' hj').mp rfl
  exact ⟨hrow.symm.trans hrow', hcol.symm.trans hcol'⟩

/-- Blitting one cell XORs its bit into its pixel and into no other. -/
theorem blitCell_pixel (acc : FrameBuffer × Bool) (k : SpriteCell) (c : Fin 64) (r : Fin 32) :
    FrameBuffer.pixel (blitCell acc k).1 c r =
      (FrameBuffer.pixel acc.1 c r ^^ (decide (k.pos = (c, r)) && k.bit)) := by
  by_cases hk : k.pos = (c, r)
  · obtain ⟨rfl, rfl⟩ := (k.pos_eq_iff c r).mp hk
    simp [blitCell, hk]
  · have hne : ¬ (c = k.c ∧ r = k.r) := fun h => hk ((k.pos_eq_iff c r).mpr ⟨h.1.symm, h.2.symm⟩)
    simp [blitCell, hk, hne]

/-! ## The cells of a sprite -/

/-- A sprite's cells are the eight of each of its rows. -/
theorem mem_spriteCells {x y : Byte} {k : SpriteCell} {i : Nat} {rows : List Byte} :
    k ∈ spriteCells x y i rows ↔
      ∃ m row j, rows[m]? = some row ∧ j < 8 ∧ spriteCell x y row (i + m) j = k := by
  induction rows generalizing i with
  | nil => simp [spriteCells]
  | cons first rest ih =>
    simp only [spriteCells, List.mem_append, List.mem_map, List.mem_range, ih]
    constructor
    · rintro (⟨j, hj, rfl⟩ | ⟨m, row, j, hm, hj, rfl⟩)
      · exact ⟨0, first, j, rfl, hj, rfl⟩
      · exact ⟨m + 1, row, j, hm, hj, by rw [Nat.add_right_comm, Nat.add_assoc]⟩
    · rintro ⟨_ | m, row, j, hm, hj, rfl⟩
      · cases hm
        exact .inl ⟨j, hj, rfl⟩
      · exact .inr ⟨m, row, j, hm, hj, by rw [Nat.add_right_comm, Nat.add_assoc]⟩

/-- No pixel is touched twice (R110): a sprite of at most 32 rows nowhere meets itself. -/
theorem spriteCells_pairwise_pos_ne (x y : Byte) {i : Nat} {rows : List Byte}
    (h : i + rows.length ≤ 32) :
    (spriteCells x y i rows).Pairwise fun k l => k.pos ≠ l.pos := by
  induction rows generalizing i with
  | nil => exact .nil
  | cons first rest ih =>
    rw [List.length_cons] at h
    refine List.pairwise_append.mpr ⟨?sameRow, ih (by omega), fun k hk l hl heq => ?otherRow⟩
    case sameRow =>
      refine List.pairwise_map.mpr (List.pairwise_lt_range.imp_of_mem fun ha hb hlt heq => ?_)
      rw [List.mem_range] at ha hb
      have hcol := (spriteCell_pos_inj (by omega) (by omega) (by omega) (by omega) heq).2
      omega
    case otherRow =>
      obtain ⟨j, hj, rfl⟩ := List.mem_map.mp hk
      obtain ⟨m, row, j', hm, hj', rfl⟩ := mem_spriteCells.mp hl
      obtain ⟨hlt, -⟩ := List.getElem?_eq_some_iff.mp hm
      rw [List.mem_range] at hj
      have hrow := (spriteCell_pos_inj (by omega) (by omega) (by omega) (by omega) heq).1
      omega

/-! ## The bit over a pixel -/

/-- The bit that the cells of a list put over the pixel (c, r). -/
def cellsBit (cells : List SpriteCell) (c : Fin 64) (r : Fin 32) : Bool :=
  cells.any fun k => decide (k.pos = (c, r)) && k.bit

theorem cellsBit_cons (k : SpriteCell) (rest : List SpriteCell) (c : Fin 64) (r : Fin 32) :
    cellsBit (k :: rest) c r = (decide (k.pos = (c, r)) && k.bit || cellsBit rest c r) := rfl

theorem cellsBit_eq_true {cells : List SpriteCell} {c : Fin 64} {r : Fin 32} :
    cellsBit cells c r = true ↔ ∃ k ∈ cells, k.pos = (c, r) ∧ k.bit = true := by
  simp [cellsBit]

theorem cellsBit_eq_false_of_pos_ne {cells : List SpriteCell} {c : Fin 64} {r : Fin 32}
    (h : ∀ k ∈ cells, k.pos ≠ (c, r)) : cellsBit cells c r = false := by
  rw [Bool.eq_false_iff, Ne, cellsBit_eq_true]
  rintro ⟨k, hk, hpos, -⟩
  exact h k hk hpos

/-- The cells of a sprite of at most 32 rows put over each pixel the bit that `spriteBit` computes from the
pixel's offsets. -/
theorem cellsBit_spriteCells (x y : Byte) {rows : List Byte} (h : rows.length ≤ 32) (c : Fin 64)
    (r : Fin 32) : cellsBit (spriteCells x y 0 rows) c r = spriteBit x y rows c r := by
  rw [Bool.eq_iff_iff, cellsBit_eq_true, spriteBit_eq, Bool.and_eq_true, decide_eq_true_iff]
  constructor
  · rintro ⟨k, hk, hpos, hbit⟩
    obtain ⟨m, row, j, hm, hj, rfl⟩ := mem_spriteCells.mp hk
    obtain ⟨hlt, -⟩ := List.getElem?_eq_some_iff.mp hm
    obtain ⟨hrow, hcol⟩ := (spriteCell_pos_eq_iff (by omega) (by omega)).mp hpos
    rw [Nat.zero_add] at hrow
    rw [hrow, hcol, List.getD_eq_getElem?_getD, hm]
    exact ⟨hj, hbit⟩
  · rintro ⟨hj, hbit⟩
    by_cases hlt : rowOffset y r < rows.length
    · rw [List.getD_eq_getElem _ _ hlt] at hbit
      refine ⟨_, mem_spriteCells.mpr ⟨_, _, _, List.getElem?_eq_getElem hlt, hj, rfl⟩, ?_, hbit⟩
      exact (spriteCell_pos_eq_iff (by omega) (by omega)).mpr ⟨(Nat.zero_add _).symm, rfl⟩
    · rw [List.getD_eq_default _ _ (Nat.le_of_not_lt hlt)] at hbit
      simp at hbit

/-! ## The blit (R110, R111) -/

/-- Blitting cells of distinct pixels XORs their bits into the pixels before. -/
theorem foldl_blitCell_pixel {cells : List SpriteCell} (h : cells.Pairwise fun k l => k.pos ≠ l.pos)
    (acc : FrameBuffer × Bool) (c : Fin 64) (r : Fin 32) :
    FrameBuffer.pixel (cells.foldl blitCell acc).1 c r =
      (FrameBuffer.pixel acc.1 c r ^^ cellsBit cells c r) := by
  induction h generalizing acc with
  | nil => simp [cellsBit]
  | @cons k rest hk _ ih =>
    rw [List.foldl_cons, ih, blitCell_pixel, cellsBit_cons]
    by_cases hpos : k.pos = (c, r)
    · have hrest := cellsBit_eq_false_of_pos_ne fun l hl => hpos ▸ (hk l hl).symm
      simp [hrest]
    · simp [hpos]

/-- Blitting cells of distinct pixels collides exactly where a pixel lit before meets a 1 bit. -/
theorem foldl_blitCell_collides {cells : List SpriteCell}
    (h : cells.Pairwise fun k l => k.pos ≠ l.pos) (acc : FrameBuffer × Bool) :
    (cells.foldl blitCell acc).2 = true ↔ acc.2 = true ∨
      ∃ k ∈ cells, FrameBuffer.pixel acc.1 k.c k.r = true ∧ k.bit = true := by
  induction h generalizing acc with
  | nil => simp
  | @cons k rest hk _ ih =>
    have hkept : ∀ l ∈ rest, FrameBuffer.pixel (blitCell acc k).1 l.c l.r =
        FrameBuffer.pixel acc.1 l.c l.r := fun l hl => by
      have hpos : k.pos ≠ (l.c, l.r) := hk l hl
      simp [blitCell_pixel, hpos]
    have hold : (blitCell acc k).2 = true ↔
        acc.2 = true ∨ (FrameBuffer.pixel acc.1 k.c k.r = true ∧ k.bit = true) := by
      simp [blitCell]
    rw [List.foldl_cons, ih, hold, or_assoc, List.exists_mem_cons_iff]
    refine or_congr_right (or_congr_right (exists_congr fun l => and_congr_right fun hl => ?_))
    rw [hkept l hl]

/-- Drawing at most 32 rows XORs the sprite into the pixels before the draw. -/
theorem composite_pixel (f : FrameBuffer) (x y : Byte) {rows : List Byte} (h : rows.length ≤ 32)
    (c : Fin 64) (r : Fin 32) : FrameBuffer.pixel (composite f x y rows).1 c r =
      (FrameBuffer.pixel f c r ^^ spriteBit x y rows c r) := by
  rw [← cellsBit_spriteCells x y h]
  exact foldl_blitCell_pixel (spriteCells_pairwise_pos_ne x y ((Nat.zero_add _).trans_le h)) _ c r

/-- Drawing at most 32 rows collides exactly where some pixel lit before the draw is under a 1 bit. -/
theorem composite_collides (f : FrameBuffer) (x y : Byte) {rows : List Byte} (h : rows.length ≤ 32) :
    (composite f x y rows).2 = true ↔
      ∃ c r, FrameBuffer.pixel f c r = true ∧ spriteBit x y rows c r = true := by
  have hcells := foldl_blitCell_collides
    (spriteCells_pairwise_pos_ne x y ((Nat.zero_add _).trans_le h)) (f, false)
  simp only [← cellsBit_spriteCells x y h, cellsBit_eq_true]
  refine hcells.trans ⟨?_, ?_⟩
  · rintro (hfalse | ⟨k, hk, hlit, hbit⟩)
    · cases hfalse
    · exact ⟨k.c, k.r, hlit, k, hk, rfl, hbit⟩
  · rintro ⟨c, r, hlit, k, hk, hpos, hbit⟩
    obtain ⟨rfl, rfl⟩ := (k.pos_eq_iff c r).mp hpos
    exact .inr ⟨k, hk, hlit, hbit⟩

/-! ## Operands, the registers kept, and DRW (R109, R112) -/

theorem zextByte_toNat (b : Byte) : (zextByte b).toNat = b.toNat :=
  BitVec.toNat_setWidth_of_le (by decide)

@[simp] theorem State.length_spriteRows (s : State) (n : Nat) : (s.spriteRows n).length = n :=
  s.mem.length_readBlock s.base n

/-- The registers an instruction keeps: those outside any list that holds its destinations and, where it
writes the flag, VF. -/
theorem exec_sameRegsExcept {i : Instr} {s t : State} {xs : List Reg} (h : exec i s = .next t)
    (hxs : ∀ k, writesReg i k ∨ (k = 15 ∧ writesFlag i) → k ∈ xs) : SameRegsExcept xs s t :=
  fun k hk => by_contra fun hne => hk (hxs k ((exec_completes h).reg_change hne))

/-- DRW commits where its rows exist (R109). -/
theorem execDrw_ok (x y : Reg) {n : Nat} {s : State} (h : n = 0 ∨ s.base + n ≤ 4096) :
    exec (.drw x y n) s = .next
      ((s.setFb (composite s.fb (s.reg x) (s.reg y) (s.spriteRows n)).1).setFlag
        (collisionFlag (composite s.fb (s.reg x) (s.reg y) (s.spriteRows n)).2)).advance :=
  guardRange_ok _ _ _ h

end Sys2Proof.Machine
end

section
/-! SETTLED. the index register, the random byte and the sprite draw. -/

namespace Sys2Proof.Proofs

open Sys2Proof Sys2Proof.Machine

/-- Settles O42: XOR with the same bit twice is nothing, and a pixel under a 1 bit is lit after the first
draw exactly where it was unlit before. -/
theorem drawingTwiceRestores : Obligations.DrawingTwiceRestores := by
  intro f x y rows hrows
  have hlen : rows.length ≤ 32 := by omega
  refine ⟨FrameBuffer.ext_pixel _ _ fun c r => ?_, ?_⟩
  · rw [composite_pixel _ x y hlen, composite_pixel _ x y hlen, Bool.xor_assoc, Bool.xor_self,
      Bool.xor_false]
  · rw [composite_collides _ x y hlen]
    refine exists_congr fun c => exists_congr fun r => ?_
    rw [composite_pixel _ x y hlen, and_comm]
    refine and_congr_right fun hbit => ?_
    rw [hbit, Bool.xor_true, Bool.not_eq_true']

/-- Settles O41: the bounds check passes, the composite is the XOR, and VF is its collision. -/
theorem drwXorsTheSprite : Obligations.DrwXorsTheSprite := by
  intro x y n s hn hrows
  have hlen : (s.spriteRows n).length ≤ 32 := by
    rw [s.length_spriteRows]
    omega
  have hcol := composite_collides s.fb (s.reg x) (s.reg y) hlen
  have hexec := execDrw_ok x y hrows
  have hvf := execDrw_vf hexec
  refine ⟨_, hexec, composite_pixel s.fb _ _ hlen, ?_, rfl,
    exec_sameRegsExcept hexec (by simp [writesReg]), exec_frame hexec⟩
  by_cases hc : (composite s.fb (s.reg x) (s.reg y) (s.spriteRows n)).2 = true
  · exact .inl ⟨hvf.trans (congrArg collisionFlag hc), hcol.mp hc⟩
  · refine .inr ⟨hvf.trans (congrArg collisionFlag (Bool.eq_false_of_not_eq_true hc)), ?_⟩
    exact fun c r hlit => Bool.eq_false_of_not_eq_true fun hbit => hc (hcol.mpr ⟨c, r, hlit, hbit⟩)

/-- Settles O39: zero extension keeps the value of nnn and of V[x], and the word sum is the sum mod
2^16. -/
theorem indexRegisterIsLoadedAndAdded : Obligations.IndexRegisterIsLoadedAndAdded := by
  refine ⟨fun nnn s => ⟨_, rfl, zextAddress_toNat nnn, rfl, exec_frame (i := .ldI nnn) rfl⟩,
    fun x s => ⟨_, rfl, ?_, rfl, exec_frame (i := .addIVx x) rfl⟩⟩
  rw [State.advance_i, State.setI_i, BitVec.toNat_add, zextByte_toNat]

/-- Settles O40: RND has no check, so the byte is drawn whatever kk is. -/
theorem rndDrawsOneMaskedByte : Obligations.RndDrawsOneMaskedByte := by
  intro x kk s
  have hexec : exec (.rnd x kk) s =
      .next (s.consumeRandom.setReg x (s.randomByte &&& kk)).advance := rfl
  refine ⟨_, hexec, ?_, rfl, rfl, rfl, exec_sameRegsExcept hexec (by simp [writesReg, writesFlag]),
    exec_frame hexec⟩
  simp [State.randomByte]

end Sys2Proof.Proofs
end

section
/-! SUPPORT. LD [I], Vx and LD Vx, [I] where their addresses exist: the state each commits, the bytes the
store keeps and the registers after the load (44_load_store.md R113, R114). -/

namespace Sys2Proof.Machine

/-- LD [I], Vx commits where its addresses exist (R113). -/
theorem execLdMemVx_ok {x : Reg} {s : State} (h : s.base + blockLength x ≤ 4096) :
    exec (.ldMemVx x) s =
      .next (s.setMem (s.mem.writeBlock s.base (s.regBlock x))).advance :=
  guardRange_ok _ _ _ (.inr h)

/-- LD Vx, [I] commits where its addresses exist (R114). -/
theorem execLdVxMem_ok {x : Reg} {s : State} (h : s.base + blockLength x ≤ 4096) :
    exec (.ldVxMem x) s = .next (s.setRegsTo x fun k => s.mem.read (s.base + k)).advance :=
  guardRange_ok _ _ _ (.inr h)

/-- LD [I], Vx keeps every byte outside its block. -/
theorem execLdMemVx_read_outside {x : Reg} {s t : State} (h : exec (.ldMemVx x) s = .next t) {a : Nat}
    (ha : ¬ (s.base ≤ a ∧ a < s.base + blockLength x)) : t.mem.read a = s.mem.read a := by
  obtain ⟨-, rfl⟩ := execLdMemVx_next x s t h
  exact Memory.read_writeBlock_outside _ _ _ _ (by rwa [State.length_regBlock])

/-- After LD Vx, [I] the registers up to V[x] hold the bytes from I up, and the others are kept. -/
theorem execLdVxMem_reg {x : Reg} {s t : State} (h : exec (.ldVxMem x) s = .next t) (k : Reg) :
    t.reg k = if k ≤ x then s.mem.read (s.base + k.val) else s.reg k := by
  obtain ⟨-, rfl⟩ := execLdVxMem_next x s t h
  rw [State.reg_advance, State.reg_setRegsTo]

end Sys2Proof.Machine
end

section
/-! SETTLED. the register block store and load. -/

namespace Sys2Proof.Proofs

open Sys2Proof Sys2Proof.Machine

/-- Settles O44: the stored bytes (`execLdMemVx_read`), the bytes kept (`execLdMemVx_read_outside`) and
the frame. -/
theorem ldMemVxStoresTheBlock : Obligations.LdMemVxStoresTheBlock := by
  intro x s hbound
  have hstore := execLdMemVx_ok hbound
  exact ⟨_, hstore, fun k hk => execLdMemVx_read hstore hk,
    fun a ha => execLdMemVx_read_outside hstore ha, rfl, exec_frame hstore⟩

/-- Settles O45: every register after the load (`execLdVxMem_reg`), and the frame. -/
theorem ldVxMemLoadsTheBlock : Obligations.LdVxMemLoadsTheBlock := by
  intro x s hbound
  have hload := execLdVxMem_ok hbound
  exact ⟨_, hload, execLdVxMem_reg hload, rfl, exec_frame hload⟩

/-- Settles O46: the store answered, so its addresses exist, and the load reads the same ones; each byte
there is the register that was stored. -/
theorem storedBlockIsLoadedBack : Obligations.StoredBlockIsLoadedBack := by
  intro x s t u hstore hmem hi
  obtain ⟨hbound, -⟩ := execLdMemVx_next x s t hstore
  have hbase : u.base = s.base := congrArg BitVec.toNat hi
  have hload := execLdVxMem_ok (hbase.symm ▸ hbound)
  refine ⟨_, hload, fun k hk => ?_⟩
  rw [execLdVxMem_reg hload, if_pos hk, hmem, hbase, execLdMemVx_read hstore hk]

end Sys2Proof.Proofs
end

section
/-! SUPPORT. Ticks: many of them at once, and a tick beside an instruction and beside a step
(60_exceptions.md R122, R126, R127, R136). -/

namespace Sys2Proof.Machine

/-! ## Many ticks (R126) -/

/-- The state `n` ticks later. -/
def State.afterTicks (s : State) (n : Nat) : State :=
  { s with dt := BitVec.ofNat 8 (s.dt.toNat - n), st := BitVec.ofNat 8 (s.st.toNat - n) }

@[simp] theorem State.afterTicks_zero (s : State) : s.afterTicks 0 = s := by
  simp [State.afterTicks]

/-- One tick and `n` more are `n + 1` ticks. -/
theorem State.tick_afterTicks (s : State) (n : Nat) :
    s.tick.afterTicks n = s.afterTicks (n + 1) := by
  have htimer (b : Byte) : (if 0 < b.toNat then b - 1 else 0).toNat - n = b.toNat - (n + 1) := by
    rw [timer_tick_toNat]
    omega
  simp only [State.afterTicks, State.tick, htimer]

theorem timer_afterTicks_toNat (b : Byte) (n : Nat) :
    (BitVec.ofNat 8 (b.toNat - n)).toNat = b.toNat - n := by
  have := b.isLt
  rw [BitVec.toNat_ofNat, Nat.mod_eq_of_lt (by omega)]

theorem State.afterTicks_frame (s : State) (n : Nat) : SameExcept [.timers] s (s.afterTicks n) := by
  simp [SameExcept, Part.forall_iff, SamePart, State.afterTicks, State.reg]

/-! ## A tick beside a step (R127) -/

/-- No instruction sees the timers or writes them. -/
theorem exec_tick (i : Instr) (s : State) :
    OutcomesAgree (fun t u => u = t.tick) (exec i s) (exec i s.tick) := by
  cases i with
  | call nnn =>
    by_cases hs : s.sp.val < 16
    · rw [execCall_ok nnn hs, execCall_ok nnn (s := s.tick) hs]
      rfl
    · rw [execCall_full nnn hs, execCall_full nnn (s := s.tick) hs]
      rfl
  | ret =>
    by_cases hs : s.sp.val = 0
    · rw [execRet_empty hs, execRet_empty (s := s.tick) hs]
      rfl
    · rw [execRet_ok hs, execRet_ok (s := s.tick) hs]
      rfl
  | drw | ldMemVx | ldVxMem => exact .guardRange (R := fun t u => u = t.tick) rfl _ _
  | _ => rfl

/-- Nor does RUN or the fetch depend on the timers. -/
theorem step_tick (s : State) :
    OutcomesAgree (fun t u => u = t.tick) (step s) (step s.tick) := by
  cases hrun : s.run with
  | halted =>
    rw [step_halted s hrun, step_halted s.tick hrun]
    rfl
  | running =>
    rw [step_running s hrun, step_running s.tick hrun, s.tick_fetchInstr]
    cases s.fetchInstr with
    | error e => rfl
    | ok i => exact exec_tick i s

/-! ## Errors and ticks (R122) -/

theorem OutcomesAgree.fault_right {R : State → State → Prop} {e : Fault} {b : Result}
    (h : OutcomesAgree R (.fault e) b) : b = .fault e := by
  cases b with
  | fault f => exact congrArg _ h.symm
  | next | refused => exact h.elim

/-- A step that fails, fails in the same way after any number of ticks. -/
theorem step_afterTicks_fault {s : State} {e : Fault} (h : step s = .fault e) (n : Nat) :
    step (s.afterTicks n) = .fault e := by
  induction n generalizing s with
  | zero => rwa [s.afterTicks_zero]
  | succ n ih =>
    rw [← s.tick_afterTicks]
    exact ih (OutcomesAgree.fault_right (h ▸ step_tick s))

/-- Only a running core fails. -/
theorem run_of_step_fault {s : State} {e : Fault} (h : step s = .fault e) : s.run = .running := by
  cases hrun : s.run with
  | running => rfl
  | halted =>
    rw [step_halted s hrun] at h
    cases h

/-! ## Ticks and steps in a session -/

/-- Ticks alone leave the timers that much lower, and the session otherwise as it was. -/
theorem Session.applyAll_ticks (h : Session) (n : Nat) :
    (h.applyAll (List.replicate n .tick)).1 = { h with core := h.core.afterTicks n } := by
  induction n generalizing h with
  | zero => simp [Session.applyAll]
  | succ n ih =>
    rw [← h.core.tick_afterTicks]
    exact ih { h with core := h.core.tick }

/-- The step port answers the error of the step (R130). -/
theorem Session.takeStep_of_fault {h : Session} {e : Fault} (he : step h.core = .fault e) :
    h.takeStep.2 = .error e := by
  rw [Session.takeStep, he]

theorem Session.takeStep_halted {h : Session} (hrun : h.core.run = .halted) :
    h.takeStep.1.core = h.core := by
  rw [Session.takeStep, step_halted _ hrun]

/-- In Halted only the ticks among steps and ticks do anything (R136). -/
theorem Session.applyAll_halted {h : Session} {qs : List Transaction} (hrun : h.core.run = .halted)
    (hqs : ∀ q ∈ qs, q = .step ∨ q = .tick) :
    (h.applyAll qs).1.core = h.core.afterTicks (qs.count .tick) := by
  induction qs generalizing h with
  | nil => exact h.core.afterTicks_zero.symm
  | cons q rest ih =>
    obtain ⟨hq, hrest⟩ := List.forall_mem_cons.mp hqs
    obtain rfl | rfl := hq
    · have hkept := Session.takeStep_halted hrun
      have hcore := ih (h := h.takeStep.1) (by rw [hkept, hrun]) hrest
      rw [hkept] at hcore
      rwa [List.count_cons_of_ne (by decide)]
    · rw [List.count_cons_self, ← h.core.tick_afterTicks]
      exact ih (h := { h with core := h.core.tick }) hrun hrest

end Sys2Proof.Machine
end

section
/-! SUPPORT. The load port: what it answers, and when it is closed (70_reset_and_hazards.md R140,
R144). -/

namespace Sys2Proof.Machine

theorem Session.takeLoad_ok {h : Session} {bytes : List Byte} (hopen : h.loadOpen = true)
    (hlen : bytes.length ≤ 0xE00) : h.takeLoad bytes =
      ({ core := h.core.setMem (h.core.mem.writeBlock 0x200 bytes), loadOpen := false }, .done) := by
  rw [Session.takeLoad, if_pos hopen, State.load_ok _ _ hlen]

theorem Session.takeLoad_tooLarge {h : Session} {bytes : List Byte} (hopen : h.loadOpen = true)
    (hlen : 0xE00 < bytes.length) : h.takeLoad bytes =
      ({ core := h.core, loadOpen := false }, .error .programTooLarge) := by
  rw [Session.takeLoad, if_pos hopen, State.load_tooLarge _ _ hlen]

theorem Session.takeLoad_closed {h : Session} (hclosed : h.loadOpen = false) (bytes : List Byte) :
    h.takeLoad bytes = (h, .refused .loadOutsideContract) := by
  simp [Session.takeLoad, hclosed]

/-- A load closes the port, whether it is carried out, fails or is refused. -/
theorem Session.takeLoad_loadOpen (h : Session) (bytes : List Byte) :
    (h.takeLoad bytes).1.loadOpen = false := by
  cases hopen : h.loadOpen with
  | false => rw [h.takeLoad_closed hopen, hopen]
  | true =>
    by_cases hlen : bytes.length ≤ 0xE00
    · rw [h.takeLoad_ok hopen hlen]
    · rw [h.takeLoad_tooLarge hopen (Nat.lt_of_not_le hlen)]

/-- A step closes the port, whatever its outcome. -/
theorem Session.takeStep_loadOpen (h : Session) : h.takeStep.1.loadOpen = false := by
  unfold Session.takeStep
  cases step h.core <;> rfl

theorem Session.takePreset_loadOpen (h : Session) (p : Preset) :
    (h.takePreset p).1.loadOpen = h.loadOpen := by
  unfold Session.takePreset
  cases h.core.preset p <;> rfl

/-- Only a reset opens the port again. -/
theorem Session.apply_keeps_closed {h : Session} {q : Transaction} (hclosed : h.loadOpen = false)
    (hq : ∀ font seed, q ≠ .reset font seed) : (h.apply q).1.loadOpen = false := by
  cases q with
  | reset font seed => exact absurd rfl (hq font seed)
  | load bytes => exact h.takeLoad_loadOpen bytes
  | step => exact h.takeStep_loadOpen
  | tick => exact hclosed
  | preset p => exact (h.takePreset_loadOpen p).trans hclosed

theorem Session.applyAll_keeps_closed {h : Session} {qs : List Transaction}
    (hclosed : h.loadOpen = false) (hqs : ∀ q ∈ qs, ∀ font seed, q ≠ .reset font seed) :
    (h.applyAll qs).1.loadOpen = false := by
  induction qs generalizing h with
  | nil => exact hclosed
  | cons q rest ih =>
    obtain ⟨hq, hrest⟩ := List.forall_mem_cons.mp hqs
    exact ih (Session.apply_keeps_closed hclosed hq) hrest

end Sys2Proof.Machine
end

section
/-! SUPPORT. Runs of many steps, and how they end (60_exceptions.md R139). -/

namespace Sys2Proof.Machine

theorem run_of_next {s t : State} (h : step s = .next t) (n : Nat) :
    Host.Core.run core (n + 1) s = Host.Core.run core n t := by
  have hstep : core.step s = .next t := h
  simp only [Host.Core.run, hstep]

theorem run_of_fault {s : State} {e : Fault} (h : step s = .fault e) (n : Nat) :
    Host.Core.run core (n + 1) s = .fault e := by
  have hstep : core.step s = .fault e := h
  simp only [Host.Core.run, hstep]

theorem run_of_refused {s : State} {r : Refusal} (h : step s = .refused r) (n : Nat) :
    Host.Core.run core (n + 1) s = .refused r := by
  have hstep : core.step s = .refused r := h
  simp only [Host.Core.run, hstep]

/-- A halted core stays as it is for any number of steps. -/
theorem run_halted {s : State} (h : s.run = .halted) (n : Nat) :
    Host.Core.run core n s = .next s := by
  induction n with
  | zero => rfl
  | succ n ih => rw [run_of_next (step_halted s h), ih]

/-- A run of `m + n` steps goes on from where its first `m` steps end. -/
theorem run_add_of_next {s t : State} {m : Nat} (h : Host.Core.run core m s = .next t) (n : Nat) :
    Host.Core.run core (m + n) s = Host.Core.run core n t := by
  induction m generalizing s with
  | zero =>
    cases h
    rw [Nat.zero_add]
  | succ m ih =>
    cases hstep : step s with
    | next u =>
      rw [run_of_next hstep] at h
      rw [Nat.succ_add, run_of_next hstep, ih h]
    | fault e =>
      rw [run_of_fault hstep] at h
      cases h
    | refused r =>
      rw [run_of_refused hstep] at h
      cases h

end Sys2Proof.Machine
end

section
/-! SUPPORT. Accesses outside memory (60_exceptions.md R117). -/

namespace Sys2Proof.Machine

/-- A bounds check that fails names the lowest address of its block that does not exist (R117). -/
theorem guardRange_lowest {base n : Nat} (t : State) (hn : 0 < n) (h : 4096 < base + n) :
    ∃ a, guardRange base n t = .fault (.outOfBounds a) ∧ base ≤ a ∧ a < base + n ∧ 4096 ≤ a ∧
      ∀ b, base ≤ b → b < a → b < 4096 :=
  ⟨max base 4096, guardRange_fault _ _ _ (by omega), by omega, by omega, by omega, by omega⟩

/-- A fetch at 0xFFF or above fails. -/
theorem fetchWordAt_outside (m : Memory) {a : Nat} (h : ¬ a + 1 < 4096) :
    fetchWordAt m a = .error (.outOfBounds a) :=
  if_neg h

end Sys2Proof.Machine
end

section
/-! SETTLED. errors, ticks, the load port, the debug port, and how a run ends. -/

namespace Sys2Proof.Proofs

open Sys2Proof Sys2Proof.Machine

/-- Settles O10: the core ends as the ticks alone would leave it (`Session.applyAll_halted`). -/
theorem haltedKeepsAllButTimers : Obligations.HaltedKeepsAllButTimers := by
  intro h qs hrun hqs
  rw [Session.applyAll_halted hrun hqs]
  exact ⟨h.core.afterTicks_frame _, timer_afterTicks_toNat _ _, timer_afterTicks_toNat _ _⟩

/-- Settles O12: the error leaves the core as it was, ticks do not change what the next step answers
(`step_afterTicks_fault`), and only a running core fails. -/
theorem errorRepeats : Obligations.ErrorRepeats := by
  intro h e n he
  obtain ⟨hstep, hkept⟩ := h.takeStep_error e he
  have hstep' := step_afterTicks_fault hstep n
  have hticks : ((h.apply .step).1.applyAll (List.replicate n .tick)).1 =
      { core := h.core.afterTicks n, loadOpen := false } := by
    rw [Session.applyAll_ticks, Session.apply, hkept]
  rw [hticks]
  exact ⟨Session.takeStep_of_fault hstep', run_of_step_fault hstep'⟩

/-- Settles O22, by the two answers of an open load port. -/
theorem loadFailsWhenTooLarge : Obligations.LoadFailsWhenTooLarge := by
  intro h bytes hopen
  rw [Session.apply]
  by_cases hlen : bytes.length ≤ 0xE00
  · have hfits : ¬ 4096 < 0x200 + bytes.length := by omega
    simp [Session.takeLoad_ok hopen hlen, hfits]
  · have hlarge : 4096 < 0x200 + bytes.length := by omega
    simp [Session.takeLoad_tooLarge hopen (Nat.lt_of_not_le hlen), hlarge]

/-- Settles O23: a load and a step close the port, and without a reset it stays closed. -/
theorem secondLoadIsRefused : Obligations.SecondLoadIsRefused := by
  intro h first qs bytes hfirst hqs
  have hclosed : (h.apply first).1.loadOpen = false := by
    obtain rfl | ⟨bs, rfl⟩ := hfirst
    · exact h.takeStep_loadOpen
    · exact h.takeLoad_loadOpen bs
  exact Session.takeLoad_closed (Session.applyAll_keeps_closed hclosed hqs) bytes

/-- Settles O43: each of the three is one bounds check (`guardRange_lowest`). -/
theorem blockAccessFailsAtTheLowestBadAddress :
    Obligations.BlockAccessFailsAtTheLowestBadAddress :=
  fun x _ _ _ => ⟨fun hn h => guardRange_lowest _ hn h, fun h =>
    have hblock : 0 < blockLength x := x.val.succ_pos
    ⟨guardRange_lowest _ hblock h, guardRange_lowest _ hblock h⟩⟩

/-- Settles O54: RND draws the byte, and every other instruction leaves the random source alone. -/
theorem onlyRndConsumesARandomByte : Obligations.OnlyRndConsumesARandomByte := by
  intro i s t h
  by_cases hrnd : ∃ x kk, i = .rnd x kk
  · obtain ⟨x, kk, rfl⟩ := hrnd
    cases h
    exact ⟨rfl, .inl ⟨x, kk, rfl, rfl, by simp [State.randomByte]⟩⟩
  · obtain ⟨hseed, hpos⟩ := exec_frame h .random (mt (random_mem_partsWritten i).mp hrnd)
    exact ⟨hseed, .inr ⟨fun x kk hi => hrnd ⟨x, kk, hi⟩, hpos⟩⟩

/-- Settles O57: no instruction reads or writes a timer, nor does the fetch (`step_tick`). -/
theorem ticksDoNotDisturbSteps : Obligations.TicksDoNotDisturbSteps :=
  step_tick

/-- Settles O58, by induction on the number of ticks (`Session.applyAll_ticks`). -/
theorem eachTickIsOneDecrement : Obligations.EachTickIsOneDecrement :=
  Session.applyAll_ticks

/-- Settles O59: the stream is as long as there are words from PC to the end of memory. -/
theorem debugWordsAreTheFetchesFromPc : Obligations.DebugWordsAreTheFetchesFromPc := by
  intro s k
  rw [State.debugWords, List.getElem?_map]
  by_cases hin : s.pc.toNat + 2 * k + 1 < 4096
  · rw [fetchWordAt_ok _ hin, List.getElem?_range (by rw [Config.memSize]; omega)]
    rfl
  · have hlen : (List.range ((Config.memSize - s.pc.toNat) / 2)).length ≤ k := by
      rw [List.length_range, Config.memSize]
      omega
    rw [fetchWordAt_outside _ hin, List.getElem?_eq_none hlen]
    rfl

/-- Settles O60: a run that had halted by the step that fails is still halted there, and one that fails
first has no later state. -/
theorem haltedRunNeverFails : Obligations.HaltedRunNeverFails := by
  rintro s k j e ⟨t, hk, hhalted⟩ ⟨u, hj, hfault⟩
  obtain hle | hlt := le_or_gt k j
  · obtain ⟨n, rfl⟩ := Nat.exists_eq_add_of_le hle
    rw [run_add_of_next hk, run_halted hhalted] at hj
    cases hj
    have hrunning := run_of_step_fault hfault
    rw [hhalted] at hrunning
    cases hrunning
  · obtain ⟨n, rfl⟩ := Nat.exists_eq_add_of_lt hlt
    rw [Nat.add_assoc, run_add_of_next hj, run_of_fault hfault] at hk
    cases hk

/-- Settles O30: CALL completes where the stack has room, and else answers the overflow. -/
theorem callOverflowsOnAFullStack : Obligations.CallOverflowsOnAFullStack := by
  intro nnn s
  by_cases hroom : s.sp.val < 16
  · simp [execCall_ok nnn hroom, Nat.ne_of_lt hroom]
  · simp [execCall_full nnn hroom, s.sp_eq_full hroom]

/-- Settles O31: RET completes where the stack holds an entry, and else answers the underflow. -/
theorem retUnderflowsOnAnEmptyStack : Obligations.RetUnderflowsOnAnEmptyStack := by
  intro s
  by_cases hempty : s.sp.val = 0
  · exact iff_of_true (execRet_empty hempty) hempty
  · simp [execRet_ok hempty, hempty]

end Sys2Proof.Proofs
end

section
/-! SUPPORT. What construction leaves at PC, the bytes of a block write, and the frame of another memory
(70_reset_and_hazards.md R141, R143, R144). -/

namespace Sys2Proof.Machine

/-- The word at PC after construction is 0x0000: PC is outside the font region. -/
theorem State.resetWith_fetch (font : FontTable) (seed : Nat) :
    (State.resetWith font seed).fetch = .ok 0x0000 := by
  have hhi := Memory.read_construct_outside font 0x200 (by decide)
  have hlo := Memory.read_construct_outside font 0x201 (by decide)
  calc (State.resetWith font seed).fetch
      = .ok (wordOfBytes ((Memory.construct font).read 0x200) ((Memory.construct font).read 0x201)) :=
        State.fetch_ok _ (by simp)
    _ = .ok 0x0000 := by rw [hhi, hlo]; rfl

/-- A block write puts each byte at its place. -/
theorem Memory.read_writeBlock_add {bytes : List Byte} (m : Memory) (a : Nat) {k : Nat}
    (hk : k < bytes.length) : (m.writeBlock a bytes).read (a + k) = bytes[k] := by
  simp [Memory.read_writeBlock, hk]

theorem State.setMem_frame (s : State) (m : Memory) : SameExcept [.mem] s (s.setMem m) := by
  simp [SameExcept, Part.forall_iff, SamePart]

end Sys2Proof.Machine
end

section
/-! SETTLED. the load, and a step before it. -/

namespace Sys2Proof.Proofs

open Sys2Proof Sys2Proof.Machine

/-- Settles O21: the load is one block write from 0x200 (`Session.takeLoad_ok`), and it closes the
port. -/
theorem loadWritesTheProgram : Obligations.LoadWritesTheProgram := by
  intro h bytes hopen hlen
  exact ⟨_, h.takeLoad_ok hopen hlen, rfl, fun k hk => h.core.mem.read_writeBlock_add 0x200 hk,
    h.core.mem.read_writeBlock_outside bytes 0x200, h.core.setMem_frame _⟩

/-- Settles O20: construction leaves the zero word at PC (`State.resetWith_fetch`), which halts. -/
theorem stepBeforeLoadHalts : Obligations.StepBeforeLoadHalts :=
  fun font seed => step_of_fetch_zero rfl (State.resetWith_fetch font seed)

end Sys2Proof.Proofs
end
